-- ==== Sys2Proof/Word.lean ====
section
/-! DEFINITION. The widths of the machine: an 8-bit byte, a 16-bit word, a register number. -/

namespace Sys2Proof

/-- The 8-bit byte: a general register, a memory cell, a timer (20_memory R61, 10_state R24, R29). -/
abbrev Byte := BitVec 8

/-- The 16-bit word: an instruction word, PC, I, a stack entry (30_encoding R90, 10_state R26 to R28). -/
abbrev Word := BitVec 16

/-- The number of a register V0..VF, or of a key 0x0..0xF (10_state R24, R31). -/
abbrev Reg := Fin 16

end Sys2Proof
end

