-- ==== Sys2Proof/Syntax.lean ====
section
/-! DEFINITION. The instructions: one constructor per row of spec/opcode_table.json (30_encoding R95). Field names are the
spec's (R91, R92): `x`, `y` registers, `n` a row count, `kk` a byte, `nnn` a 12-bit byte address. -/

namespace Sys2Proof

/-- The 34 instructions (30_encoding R95), in the table's order. -/
inductive Instr where
  /-- 00E0, clear the display (R220). -/
  | cls
  /-- 00EE, return from subroutine (R142). -/
  | ret
  /-- 1nnn, jump (R140). -/
  | jp (nnn : BitVec 12)
  /-- 2nnn, call (R141). -/
  | call (nnn : BitVec 12)
  /-- 3xkk, skip if V[x] = kk (R144). -/
  | seImm (x : Reg) (kk : Byte)
  /-- 4xkk, skip if V[x] != kk (R145). -/
  | sneImm (x : Reg) (kk : Byte)
  /-- 5xy0, skip if V[x] = V[y] (R146). -/
  | seReg (x y : Reg)
  /-- 6xkk, load immediate (R160). -/
  | ldImm (x : Reg) (kk : Byte)
  /-- 7xkk, add immediate (R161). -/
  | addImm (x : Reg) (kk : Byte)
  /-- 8xy0, copy (R162). -/
  | ldReg (x y : Reg)
  /-- 8xy1, or (R180). -/
  | orReg (x y : Reg)
  /-- 8xy2, and (R181). -/
  | andReg (x y : Reg)
  /-- 8xy3, exclusive or (R182). -/
  | xorReg (x y : Reg)
  /-- 8xy4, add with carry out (R163). -/
  | addReg (x y : Reg)
  /-- 8xy5, V[x] - V[y] (R164). -/
  | subReg (x y : Reg)
  /-- 8xy6, shift right (R183). -/
  | shrReg (x y : Reg)
  /-- 8xy7, V[y] - V[x] (R165). -/
  | subnReg (x y : Reg)
  /-- 8xyE, shift left (R184). -/
  | shlReg (x y : Reg)
  /-- 9xy0, skip if V[x] != V[y] (R147). -/
  | sneReg (x y : Reg)
  /-- Annn, load index (R200). -/
  | ldI (nnn : BitVec 12)
  /-- Bnnn, jump with offset (R143). `x` is the top nibble of `nnn`, used a second time (R91); WellFormed checks that it is. -/
  | jpOffset (nnn : BitVec 12) (x : Reg)
  /-- Cxkk, random (R240). -/
  | rnd (x : Reg) (kk : Byte)
  /-- Dxyn, draw (R221). -/
  | drw (x y : Reg) (n : BitVec 4)
  /-- Ex9E, skip if key pressed (R244). -/
  | skp (x : Reg)
  /-- ExA1, skip if key not pressed (R245). -/
  | sknp (x : Reg)
  /-- Fx07, read delay timer (R241). -/
  | ldVDt (x : Reg)
  /-- Fx0A, wait for a key press (R246). -/
  | ldVKey (x : Reg)
  /-- Fx15, set delay timer (R242). -/
  | ldDtV (x : Reg)
  /-- Fx18, set sound timer (R243). -/
  | ldStV (x : Reg)
  /-- Fx1E, add register to index (R201). -/
  | addIV (x : Reg)
  /-- Fx29, font address (R202). -/
  | ldFont (x : Reg)
  /-- Fx33, store BCD (R203). -/
  | ldBcd (x : Reg)
  /-- Fx55, store V0 to Vx (R204). -/
  | storeRegs (x : Reg)
  /-- Fx65, load V0 to Vx (R205). -/
  | loadRegs (x : Reg)
deriving DecidableEq, Repr

end Sys2Proof
end

