-- ==== Sys2Proof/WellFormed.lean ====
section
/-! DEFINITION. Which terms of `Instr` are instructions of the table. The widths of the fields are in their types; the one
relation between two fields is that of Bnnn (30_encoding R91: op[11:8] is the top of `nnn` and the register index `x`). -/

namespace Sys2Proof

/-- Every field holds what the encoding can hold (30_encoding R91, R92). -/
def Instr.wellFormed : Instr → Bool
  | .jpOffset nnn x => x.val == nnn.toNat / 256
  | .cls | .ret | .jp _ | .call _ | .seImm _ _ | .sneImm _ _ | .seReg _ _ | .ldImm _ _ | .addImm _ _ | .ldReg _ _
  | .orReg _ _ | .andReg _ _ | .xorReg _ _ | .addReg _ _ | .subReg _ _ | .shrReg _ _ | .subnReg _ _ | .shlReg _ _
  | .sneReg _ _ | .ldI _ | .rnd _ _ | .drw _ _ _ | .skp _ | .sknp _ | .ldVDt _ | .ldVKey _ | .ldDtV _ | .ldStV _
  | .addIV _ | .ldFont _ | .ldBcd _ | .storeRegs _ | .loadRegs _ => true

end Sys2Proof
end

