-- ==== Sys2Proof/Decode.lean ====
section
/-! DEFINITION. The decoder (30_encoding R90 to R100), total on every word and on every list of bytes, rejecting by name; after
it the encoder, from the same tables. -/

namespace Sys2Proof

/-- Why bytes are no instruction, by the row of 30_encoding R96 (and too few bytes for a 2-byte instruction, R90). -/
inductive Reject where
  | truncated
  /-- 0x0nnn but 00E0 and 00EE (R96, R97). -/
  | machineCall
  /-- 0x5xyz, z != 0. -/
  | skipEqual
  /-- 0x8xyz, z in 8..D or F. -/
  | registerOp
  /-- 0x9xyz, z != 0. -/
  | skipDiffer
  /-- 0xExkk, kk neither 9E nor A1. -/
  | keyTest
  /-- 0xFxkk with no row for kk. -/
  | miscOp
deriving DecidableEq, Repr

/-! The fields of a word (30_encoding R91). -/

/-- op[15:12], the family. -/
def family (w : Word) : BitVec 4 := w.extractLsb' 12 4
/-- op[11:8] as a register number. -/
def xField (w : Word) : Reg := (w.extractLsb' 8 4).toFin
/-- op[7:4] as a register number. -/
def yField (w : Word) : Reg := (w.extractLsb' 4 4).toFin
/-- op[3:0]. -/
def nField (w : Word) : BitVec 4 := w.extractLsb' 0 4
/-- op[7:0]. -/
def kkField (w : Word) : Byte := w.extractLsb' 0 8
/-- op[11:0]. -/
def nnnField (w : Word) : BitVec 12 := w.extractLsb' 0 12

/-- Family 0: two whole words (30_encoding R93). -/
def decodeFamily0 (w : Word) : Except Reject Instr :=
  if w = 0x00E0#16 then .ok .cls
  else if w = 0x00EE#16 then .ok .ret
  else .error .machineCall

/-- Family 8, by op[3:0] (30_encoding R93). -/
def decodeFamily8 (w : Word) : Except Reject Instr :=
  match (nField w).toNat with
  | 0x0 => .ok (.ldReg (xField w) (yField w))
  | 0x1 => .ok (.orReg (xField w) (yField w))
  | 0x2 => .ok (.andReg (xField w) (yField w))
  | 0x3 => .ok (.xorReg (xField w) (yField w))
  | 0x4 => .ok (.addReg (xField w) (yField w))
  | 0x5 => .ok (.subReg (xField w) (yField w))
  | 0x6 => .ok (.shrReg (xField w) (yField w))
  | 0x7 => .ok (.subnReg (xField w) (yField w))
  | 0xE => .ok (.shlReg (xField w) (yField w))
  | _ => .error .registerOp

/-- Family E, by op[7:0] (30_encoding R93). -/
def decodeFamilyE (w : Word) : Except Reject Instr :=
  match (kkField w).toNat with
  | 0x9E => .ok (.skp (xField w))
  | 0xA1 => .ok (.sknp (xField w))
  | _ => .error .keyTest

/-- Family F, by op[7:0] (30_encoding R93). -/
def decodeFamilyF (w : Word) : Except Reject Instr :=
  match (kkField w).toNat with
  | 0x07 => .ok (.ldVDt (xField w))
  | 0x0A => .ok (.ldVKey (xField w))
  | 0x15 => .ok (.ldDtV (xField w))
  | 0x18 => .ok (.ldStV (xField w))
  | 0x1E => .ok (.addIV (xField w))
  | 0x29 => .ok (.ldFont (xField w))
  | 0x33 => .ok (.ldBcd (xField w))
  | 0x55 => .ok (.storeRegs (xField w))
  | 0x65 => .ok (.loadRegs (xField w))
  | _ => .error .miscOp

/-- The instruction a word is, or why it is none: a pure function of the 16 bits (30_encoding R93). The last case is
family 0xF, a nibble having no other value left. -/
def decode (w : Word) : Except Reject Instr :=
  match (family w).toNat with
  | 0x0 => decodeFamily0 w
  | 0x1 => .ok (.jp (nnnField w))
  | 0x2 => .ok (.call (nnnField w))
  | 0x3 => .ok (.seImm (xField w) (kkField w))
  | 0x4 => .ok (.sneImm (xField w) (kkField w))
  | 0x5 => if nField w = 0 then .ok (.seReg (xField w) (yField w)) else .error .skipEqual
  | 0x6 => .ok (.ldImm (xField w) (kkField w))
  | 0x7 => .ok (.addImm (xField w) (kkField w))
  | 0x8 => decodeFamily8 w
  | 0x9 => if nField w = 0 then .ok (.sneReg (xField w) (yField w)) else .error .skipDiffer
  | 0xA => .ok (.ldI (nnnField w))
  | 0xB => .ok (.jpOffset (nnnField w) (xField w))
  | 0xC => .ok (.rnd (xField w) (kkField w))
  | 0xD => .ok (.drw (xField w) (yField w) (nField w))
  | 0xE => decodeFamilyE w
  | _ => decodeFamilyF w

/-- The word of two bytes of memory, the first in op[15:8] (20_memory R62). -/
def wordOfBytes (hi lo : Byte) : Word := hi ++ lo

/-- op[15:8], the byte stored first (20_memory R62). -/
def highByte (w : Word) : Byte := w.extractLsb' 8 8

/-- op[7:0], the byte stored second (20_memory R62). -/
def lowByte (w : Word) : Byte := w.extractLsb' 0 8

/-- The instruction at the head of a list of bytes, and the bytes after it. -/
def decodeBytes : List Byte → Except Reject (Instr × List Byte)
  | hi :: lo :: rest =>
    match decode (wordOfBytes hi lo) with
    | .ok i => .ok (i, rest)
    | .error r => .error r
  | _ => .error .truncated

/-- The host's question: the instruction the decoder reads from an instruction whose bits, numbered as the opcode table
numbers them, are `w` (bits from `nbits` up are 0). -/
def decodeTableWord (nbits w : Nat) : Option Instr :=
  let op : Word := BitVec.ofNat 16 (w % 2 ^ nbits)
  match decodeBytes [highByte op, lowByte op] with
  | .ok (i, _) => some i
  | .error _ => none

/-! ## The encoder -/

/-- Format NNN (30_encoding R91). -/
def packNNN (f : BitVec 4) (nnn : BitVec 12) : Word := f ++ nnn
/-- Format XKK; format X with `kk` fixed. -/
def packXKK (f : BitVec 4) (x : Reg) (kk : Byte) : Word := f ++ BitVec.ofFin (w := 4) x ++ kk
/-- Format XYN; format XY with `n` fixed. -/
def packXYN (f : BitVec 4) (x y : Reg) (n : BitVec 4) : Word := f ++ BitVec.ofFin (w := 4) x ++ BitVec.ofFin (w := 4) y ++ n

/-- The word of an instruction (30_encoding R91, R95). -/
def encode : Instr → Word
  | .cls => 0x00E0
  | .ret => 0x00EE
  | .jp nnn => packNNN 0x1 nnn
  | .call nnn => packNNN 0x2 nnn
  | .seImm x kk => packXKK 0x3 x kk
  | .sneImm x kk => packXKK 0x4 x kk
  | .seReg x y => packXYN 0x5 x y 0x0
  | .ldImm x kk => packXKK 0x6 x kk
  | .addImm x kk => packXKK 0x7 x kk
  | .ldReg x y => packXYN 0x8 x y 0x0
  | .orReg x y => packXYN 0x8 x y 0x1
  | .andReg x y => packXYN 0x8 x y 0x2
  | .xorReg x y => packXYN 0x8 x y 0x3
  | .addReg x y => packXYN 0x8 x y 0x4
  | .subReg x y => packXYN 0x8 x y 0x5
  | .shrReg x y => packXYN 0x8 x y 0x6
  | .subnReg x y => packXYN 0x8 x y 0x7
  | .shlReg x y => packXYN 0x8 x y 0xE
  | .sneReg x y => packXYN 0x9 x y 0x0
  | .ldI nnn => packNNN 0xA nnn
  | .jpOffset nnn _ => packNNN 0xB nnn
  | .rnd x kk => packXKK 0xC x kk
  | .drw x y n => packXYN 0xD x y n
  | .skp x => packXKK 0xE x 0x9E
  | .sknp x => packXKK 0xE x 0xA1
  | .ldVDt x => packXKK 0xF x 0x07
  | .ldVKey x => packXKK 0xF x 0x0A
  | .ldDtV x => packXKK 0xF x 0x15
  | .ldStV x => packXKK 0xF x 0x18
  | .addIV x => packXKK 0xF x 0x1E
  | .ldFont x => packXKK 0xF x 0x29
  | .ldBcd x => packXKK 0xF x 0x33
  | .storeRegs x => packXKK 0xF x 0x55
  | .loadRegs x => packXKK 0xF x 0x65

/-- The fixed bits of an instruction's row: the mask of 30_encoding R95. -/
def rowMask : Instr → Word
  | .cls | .ret => 0xFFFF
  | .jp _ | .call _ | .ldI _ | .jpOffset _ _ => 0xF000
  | .seImm _ _ | .sneImm _ _ | .ldImm _ _ | .addImm _ _ | .rnd _ _ | .drw _ _ _ => 0xF000
  | .seReg _ _ | .sneReg _ _ | .ldReg _ _ | .orReg _ _ | .andReg _ _ | .xorReg _ _ | .addReg _ _ | .subReg _ _
  | .shrReg _ _ | .subnReg _ _ | .shlReg _ _ => 0xF00F
  | .skp _ | .sknp _ | .ldVDt _ | .ldVKey _ | .ldDtV _ | .ldStV _ | .addIV _ | .ldFont _ | .ldBcd _ | .storeRegs _
  | .loadRegs _ => 0xF0FF

/-- What the fixed bits of an instruction's row hold: the match of 30_encoding R95. -/
def rowMatch : Instr → Word
  | .cls => 0x00E0
  | .ret => 0x00EE
  | .jp _ => 0x1000
  | .call _ => 0x2000
  | .seImm _ _ => 0x3000
  | .sneImm _ _ => 0x4000
  | .seReg _ _ => 0x5000
  | .ldImm _ _ => 0x6000
  | .addImm _ _ => 0x7000
  | .ldReg _ _ => 0x8000
  | .orReg _ _ => 0x8001
  | .andReg _ _ => 0x8002
  | .xorReg _ _ => 0x8003
  | .addReg _ _ => 0x8004
  | .subReg _ _ => 0x8005
  | .shrReg _ _ => 0x8006
  | .subnReg _ _ => 0x8007
  | .shlReg _ _ => 0x800E
  | .sneReg _ _ => 0x9000
  | .ldI _ => 0xA000
  | .jpOffset _ _ => 0xB000
  | .rnd _ _ => 0xC000
  | .drw _ _ _ => 0xD000
  | .skp _ => 0xE09E
  | .sknp _ => 0xE0A1
  | .ldVDt _ => 0xF007
  | .ldVKey _ => 0xF00A
  | .ldDtV _ => 0xF015
  | .ldStV _ => 0xF018
  | .addIV _ => 0xF01E
  | .ldFont _ => 0xF029
  | .ldBcd _ => 0xF033
  | .storeRegs _ => 0xF055
  | .loadRegs _ => 0xF065

end Sys2Proof
end

