-- ==== Sys2Proof/Config.lean ====
section
/-! DEFINITION. The configuration record `CFG` (00_scope R6) and the one free value, the random byte (46_random_timer_key R240). -/

namespace Sys2Proof

/-- `ON_INVALID`: what an illegal opcode does after it is reported (00_scope R6, 60_exceptions R281). -/
inductive InvalidPolicy where
  | skip
  | halt
deriving DecidableEq, Repr

/-- `I_OVF`: what a write of a value above 0xFFF to I stores (00_scope R6, 10_state R26). -/
inductive IOverflow where
  | mask
  | saturate
deriving DecidableEq, Repr

/-- The configuration record, constant for the life of the machine (00_scope R6, 10_state R39). -/
structure Config where
  /-- `Q.vf_reset`: 8xy1, 8xy2, 8xy3 also write VF <- 0 (43_logic_shift R185). -/
  vfReset : Bool
  /-- `Q.mem_incr`: Fx55 and Fx65 advance I by x + 1 (44_index_memory R204). -/
  memIncr : Bool
  /-- `Q.disp_wait`: Dxyn waits for a Tick (45_display R222). -/
  dispWait : Bool
  /-- `Q.clip`: sprite pixels past the right or bottom edge are dropped, not wrapped (45_display R221). -/
  clip : Bool
  /-- `Q.shift_vy`: 8xy6 and 8xyE shift Vy into Vx (43_logic_shift R185). -/
  shiftVy : Bool
  /-- `Q.jump_v0`: Bnnn adds V0, not Vx (41_control_flow R143). -/
  jumpV0 : Bool
  /-- `RATE`: instruction Steps per emulated second (60_exceptions R301). -/
  rate : Nat
  /-- `ON_INVALID`. -/
  onInvalid : InvalidPolicy
  /-- `FONT_BASE`: where the font starts in memory (10_state R22). -/
  fontBase : Nat
  /-- `FONT`: the sixteen glyphs of five rows (10_state R22, R23). -/
  font : Vector Byte 80
  /-- `I_OVF`. -/
  iOvf : IOverflow
deriving DecidableEq, Repr

/-- FREE VALUE (DESIGN CHOICE, log 3, safe). The byte the random source gives at the `k`-th draw when the host has put no
byte at the port: "any byte" (46_random_timer_key R240, 93 U7). It has no body, so no proof can know a value of it. -/
opaque Config.randomByte : Nat → Byte

end Sys2Proof
end

