-- ==== Sys2Proof/Machine/Configuration.lean ====
section
/-! DEFINITION. The reference configuration (00_scope R6), the reference font (10_state R23), and which configurations a machine
can be constructed with (47_host_interface R261). -/

namespace Sys2Proof.Machine

/-- The glyphs 0 to 7 of 10_state R23, five rows each. -/
def glyphsLow : List Byte :=
  [0xF0, 0x90, 0x90, 0x90, 0xF0] ++ [0x20, 0x60, 0x20, 0x20, 0x70] ++
  [0xF0, 0x10, 0xF0, 0x80, 0xF0] ++ [0xF0, 0x10, 0xF0, 0x10, 0xF0] ++
  [0x90, 0x90, 0xF0, 0x10, 0x10] ++ [0xF0, 0x80, 0xF0, 0x10, 0xF0] ++
  [0xF0, 0x80, 0xF0, 0x90, 0xF0] ++ [0xF0, 0x10, 0x20, 0x40, 0x40]

/-- The glyphs 8 to F of 10_state R23. -/
def glyphsHigh : List Byte :=
  [0xF0, 0x90, 0xF0, 0x90, 0xF0] ++ [0xF0, 0x90, 0xF0, 0x10, 0xF0] ++
  [0xF0, 0x90, 0xF0, 0x90, 0x90] ++ [0xE0, 0x90, 0xE0, 0x90, 0xE0] ++
  [0xF0, 0x80, 0x80, 0x80, 0xF0] ++ [0xE0, 0x90, 0x90, 0x90, 0xE0] ++
  [0xF0, 0x80, 0xF0, 0x80, 0xF0] ++ [0xF0, 0x80, 0xF0, 0x80, 0x80]

/-- The reference font (10_state R23). PRESUMED (by the spec, general knowledge G2; log 8). -/
def referenceFont : Vector Byte 80 := ⟨⟨glyphsLow ++ glyphsHigh⟩, by decide⟩

/-- The reference configuration (00_scope R6, "reference value"). DESIGN CHOICE at reset (log 1, unsafe): statements hold for
every configuration and rest on no value of this one. -/
def referenceConfig : Config where
  vfReset := false
  memIncr := false
  dispWait := false
  clip := false
  shiftVy := false
  jumpV0 := false
  rate := 600
  onInvalid := .skip
  fontBase := 0x000
  font := referenceFont
  iOvf := .mask

/-- Why a configuration is rejected at construction (47_host_interface R261). -/
inductive ConfigError where
  | rateNotPositive
  | fontOutsideLowMemory
deriving DecidableEq, Repr

/-- What construction rejects: RATE = 0, or a font that does not fit below 0x200; every quirk setting is valid (R261). -/
def configError (c : Config) : Option ConfigError :=
  if c.rate = 0 then some .rateNotPositive
  else if 0x200 < c.fontBase + 80 then some .fontOutsideLowMemory
  else none

/-- A machine can be constructed with `c` (47_host_interface R261). -/
abbrev ConfigValid (c : Config) : Prop := configError c = none

end Sys2Proof.Machine
end

