-- ==== Sys2Proof/Machine/Memory.lean ====
section
/-! DEFINITION. The memory `MEM` (10_state R21, 20_memory R60): 4096 bytes, held as the list of the cells that differ from the
reset contents, in strictly rising order of address. -/

namespace Sys2Proof.Machine

/-- MEM_SIZE (00_scope R5). -/
abbrev memSize : Nat := 4096

/-- PROG_BASE (00_scope R5). -/
abbrev progBase : Nat := 0x200

/-- ROM_MAX (00_scope R5). -/
abbrev romMax : Nat := 3584

/-- The cells that differ from the reset contents. -/
abbrev Memory := List Host.Cell

/-- What an address holds after Reset, and so what an address the list does not name reads as: the font at FONT_BASE, zero
elsewhere (70_reset_and_hazards R320, 10_state R22). -/
def resetByte (c : Config) (a : Nat) : Byte :=
  if h : c.fontBase ≤ a ∧ a < c.fontBase + 80 then c.font[a - c.fontBase]'(by omega) else 0

/-- The byte at address `a`. -/
def Memory.read (c : Config) : Memory → Nat → Byte
  | [], a => resetByte c a
  | cell :: m, a => if a = cell.1 then cell.2 else Memory.read c m a

/-- `m` with byte `b` put in front, at an address below all of `m`'s, in canonical form. -/
def Memory.cons (c : Config) (a : Nat) (b : Byte) (m : Memory) : Memory :=
  if b = resetByte c a then m else (a, b) :: m

/-- The memory after byte `b` is stored at `a`, in canonical form again. -/
def Memory.write (c : Config) : Memory → Nat → Byte → Memory
  | [], a, b => Memory.cons c a b []
  | cell :: m, a, b =>
    if a < cell.1 then Memory.cons c a b (cell :: m)
    else if a = cell.1 then Memory.cons c a b m
    else cell :: Memory.write c m a b

/-- Bytes stored at ascending addresses from `a` (20_memory R63). -/
def Memory.writeBytes (c : Config) (m : Memory) (a : Nat) : List Byte → Memory
  | [] => m
  | b :: bs => Memory.writeBytes c (Memory.write c m a b) (a + 1) bs

/-- `MemRead(a, 2)`: big-endian (20_memory R62). -/
def Memory.readWord (c : Config) (m : Memory) (a : Nat) : Word :=
  wordOfBytes (Memory.read c m a) (Memory.read c m (a + 1))

/-- The canonical form: addresses strictly rising, all in 0x000..0xFFF, no cell equal to the reset contents. -/
abbrev Memory.wf (c : Config) (m : Memory) : Prop :=
  m.Pairwise (fun p q => p.1 < q.1) ∧ ∀ cell ∈ m, cell.1 < memSize ∧ cell.2 ≠ resetByte c cell.1

end Sys2Proof.Machine
end

