-- ==== Sys2Proof/Machine/State.lean ====
section
/-! DEFINITION. The state of the machine: every element of 10_state R20, the configuration beside it, and the model's own
fields for what the environment decides (the random bytes, the order of events). `State.reset` is 70_reset_and_hazards R320. -/

namespace Sys2Proof.Machine

/-- The exceptions a Step can raise (60_exceptions R280). -/
inductive ErrorKind where
  | decodeError
  | stackOverflow
  | stackUnderflow
  | addressError
deriving DecidableEq, Repr

/-- The error record: kind, instruction word, address it was fetched from (10_state R37). -/
structure ErrorRecord where
  kind : ErrorKind
  opcode : Word
  pc : Word
deriving DecidableEq, Repr

/-- What the Advance in progress still has to perform (60_exceptions R300): Ticks and Steps. -/
inductive Due where
  | tick
  | step
deriving DecidableEq, Repr

/-- A transaction of the host (00_scope R10, 47_host_interface). The reads that change nothing (Beeping, LastError, Halted)
are functions of the state and no transactions. -/
inductive HostCall where
  /-- Reset (70_reset_and_hazards R320, R321). -/
  | reset
  /-- Load of a ROM image (47_host_interface R260). -/
  | load (rom : List Byte)
  /-- SetKeys (47_host_interface R262). -/
  | setKeys (v : BitVec 16)
  /-- Advance by `elapsed` seconds, its events in an order chosen by `order` (SCHED, 60_exceptions R300). -/
  | advance (elapsed : Rat) (order : List Due)
  /-- ReadFramebuffer (47_host_interface R264). -/
  | readFramebuffer
  /-- Bytes put at the random port (47_host_interface R269). -/
  | supplyRandom (bytes : List Byte)
deriving DecidableEq, Repr

/-- The display: 32 rows of 64 pixels, row 0 at the top, column 0 at the left (10_state R30). -/
abbrev Framebuffer := Vector (Vector Bool 64) 32

/-- The whole machine. -/
structure State where
  /-- `CFG`, constant (00_scope R6; log 1). -/
  cfg : Config
  /-- `MEM` (R21). -/
  mem : Memory
  /-- `V[0..15]` (R24). -/
  v : Vector Byte 16
  /-- `I` (R26). -/
  i : Word
  /-- `PC` (R27). -/
  pc : Word
  /-- `STACK[0..15]` (R28). -/
  stack : Vector Word 16
  /-- `SP`, 0 to 16 (R28). -/
  sp : Fin 17
  /-- `DT` (R29). -/
  dt : Byte
  /-- `ST` (R29). -/
  st : Byte
  /-- `FB` (R30). -/
  fb : Framebuffer
  /-- `KEYS`, bit k = key k pressed (R31). -/
  keys : BitVec 16
  /-- `DIRTY` (R32). -/
  dirty : Bool
  /-- `WAIT` (R33). -/
  wait : Bool
  /-- `KPREV` (R33). -/
  kprev : BitVec 16
  /-- `VBL` (R35). -/
  vbl : Bool
  /-- `HALT` (R36). -/
  halt : Bool
  /-- `ERR` (R37). -/
  err : Option ErrorRecord
  /-- `ACC_T` (R38). -/
  accT : Rat
  /-- `ACC_I` (R38). -/
  accI : Rat
  /-- MODEL'S OWN: the bytes waiting at the random port (log 3). -/
  rndIn : List Byte
  /-- MODEL'S OWN: how many random bytes have been drawn (log 3). -/
  rndDrawn : Nat
  /-- MODEL'S OWN: the events of the Advance in progress, next first (log 4). -/
  due : List Due
  /-- MODEL'S OWN: the host transactions to come, next first (log 4). -/
  inbox : List HostCall
deriving DecidableEq, Repr

/-- Faults. There is none: every error the spec describes is recorded in ERR and HALT and leaves a next state
(60_exceptions R286), so no step stops with a fault. -/
inductive Fault : Type
deriving DecidableEq, Repr

/-- Why the model gives no next state. -/
inductive Refusal where
  /-- An instruction without a meaning yet; raised by an arm of `exec`. Safe. -/
  | notModelled (mnemonic : String)
  /-- An Advance by a negative time: "behaviour is not specified (refuse)" (93 U20); raised by `hostCall`. Safe. -/
  | negativeElapsed
deriving DecidableEq, Repr

/-- What a step or a meaning answers. -/
abbrev Result := Host.Outcome State Fault Refusal

/-- The machine right after Reset with configuration `c` (70_reset_and_hazards R320, 10_state R40). -/
def State.resetWith (c : Config) : State where
  cfg := c
  mem := []
  v := Vector.replicate 16 0
  i := 0
  pc := 0x0200
  stack := Vector.replicate 16 0
  sp := 0
  dt := 0
  st := 0
  fb := Vector.replicate 32 (Vector.replicate 64 false)
  keys := 0
  dirty := false
  wait := false
  kprev := 0
  vbl := false
  halt := false
  err := none
  accT := 0
  accI := 0
  rndIn := []
  rndDrawn := 0
  due := []
  inbox := []

/-- The machine right after Reset with the reference configuration (log 1). -/
def State.reset : State := State.resetWith referenceConfig

end Sys2Proof.Machine
end

