-- ==== Sys2Proof/Machine/Ops.lean ====
section
/-! DEFINITION. The named operations over registers, memory, stack, display, program counter, and taking an exception: the
primitives of 00_scope R9. While an instruction executes, PC is already advanced (40_sequencer R120, R122): PC = pc0 + 2. -/

namespace Sys2Proof.Machine

/-! ## General registers (10_state R24) -/

/-- `V[r]`. -/
def State.getV (s : State) (r : Reg) : Byte := s.v[r]

/-- `V[r] <- b`. -/
def State.setV (s : State) (r : Reg) (b : Byte) : State := { s with v := s.v.set r b }

/-- The registers V0, V1, ..., VF. -/
def allRegs : List Reg := [0, 1, 2, 3, 4, 5, 6, 7, 8, 9, 10, 11, 12, 13, 14, 15]

/-- V0 to Vx, ascending (44_index_memory R204, R205). -/
def regsUpTo (x : Reg) : List Reg := allRegs.filter (fun r => r ≤ x)

/-! ## The index register (10_state R26) -/

/-- The value stored when `v` is written to I. -/
def wrapI (c : Config) (v : Nat) : Word :=
  match c.iOvf with
  | .mask => BitVec.ofNat 16 (v % 4096)
  | .saturate => BitVec.ofNat 16 (min v 0xFFF)

/-- `I <- v`. -/
def State.setI (s : State) (v : Nat) : State := { s with i := wrapI s.cfg v }

/-! ## The program counter (10_state R27) -/

/-- `PC <- target`. -/
def State.setPc (s : State) (target : Word) : State := { s with pc := target }

/-- The address the executing instruction was fetched from (00_scope R9): PC - 2. DEDUCED (log 6). -/
def State.pc0 (s : State) : Word := s.pc - 2

/-- `if b: PC <- PC + 2` (41_control_flow R148). -/
def State.skipIf (s : State) (b : Bool) : State := if b then s.setPc (s.pc + 2) else s

/-- `stall`: PC <- pc0 (40_sequencer R124). -/
def State.stall (s : State) : State := s.setPc s.pc0

/-! ## Memory (20_memory) -/

/-- `MemRead(a, 1)`. -/
def State.readMem (s : State) (a : Nat) : Byte := Memory.read s.cfg s.mem a

/-- `MemRead(a, 2)` (20_memory R62). -/
def State.readWord (s : State) (a : Nat) : Word := Memory.readWord s.cfg s.mem a

/-- `MemWrite(a, 1, b)`, `MemWrite(a + 1, 1, b')`, ...: ascending (20_memory R63). -/
def State.writeMem (s : State) (a : Nat) (bytes : List Byte) : State :=
  { s with mem := Memory.writeBytes s.cfg s.mem a bytes }

/-- The register file after `V[r] <- MemRead(a + r, 1)` for each register of the list (44_index_memory R205). -/
def loadInto (s : State) (a : Nat) : List Reg → Vector Byte 16 → Vector Byte 16
  | [], v => v
  | r :: rs, v => loadInto s a rs (v.set r (s.readMem (a + r)))

/-- V0 to Vx loaded from `a` upward. -/
def State.loadRegsFrom (s : State) (a : Nat) (x : Reg) : State := { s with v := loadInto s a (regsUpTo x) s.v }

/-- V0 to Vx stored from `a` upward (44_index_memory R204). -/
def State.storeRegsTo (s : State) (a : Nat) (x : Reg) : State := s.writeMem a ((regsUpTo x).map s.getV)

/-! ## The call stack (10_state R28) -/

/-- `STACK[SP] <- w; SP <- SP + 1`, where SP < 16. -/
def State.push (s : State) (w : Word) (h : s.sp.val < 16) : State :=
  { s with stack := s.stack.set s.sp.val w, sp := ⟨s.sp.val + 1, by omega⟩ }

/-- `SP <- SP - 1; PC <- STACK[SP]`, where SP > 0. -/
def State.popToPc (s : State) (h : 0 < s.sp.val) : State :=
  { s with sp := ⟨s.sp.val - 1, by omega⟩, pc := s.stack[s.sp.val - 1]'(by omega) }

/-! ## The display (10_state R30) -/

/-- `FB[row][col]`. -/
def pixelOf (fb : Framebuffer) (row : Fin 32) (col : Fin 64) : Bool := fb[row][col]

/-- `FB[row][col] <- b`. -/
def withPixel (fb : Framebuffer) (row : Fin 32) (col : Fin 64) (b : Bool) : Framebuffer := fb.set row (fb[row].set col b)

/-- The display with every pixel 0. -/
def blankDisplay : Framebuffer := Vector.replicate 32 (Vector.replicate 64 false)

/-! ## Exceptions (60_exceptions) -/

/-- The code of an exception kind (60_exceptions R280). -/
def ErrorKind.code : ErrorKind → Nat
  | .decodeError => 1
  | .stackOverflow => 2
  | .stackUnderflow => 3
  | .addressError => 4

/-- The exception stops the machine: the fatal kinds, and DecodeError when ON_INVALID = HALT (60_exceptions R286). -/
def ErrorKind.fatal (c : Config) : ErrorKind → Bool
  | .stackOverflow | .stackUnderflow | .addressError => true
  | .decodeError => c.onInvalid == .halt

/-- `raise K`, the whole of taking an exception (60_exceptions R286): ERR <- (kind, opcode, pc0); HALT <- 1 if it is fatal;
nothing else is written. There is no handler and no return from it (R292). -/
def State.raise (s : State) (k : ErrorKind) (opcode pc0 : Word) : State :=
  { s with err := some ⟨k, opcode, pc0⟩, halt := s.halt || k.fatal s.cfg }

/-- `raise K` by the executing instruction `i`: opcode = its word, pc = pc0 (60_exceptions R282 to R284; log 6). -/
def State.raiseFrom (s : State) (k : ErrorKind) (i : Instr) : State := s.raise k (encode i) s.pc0

end Sys2Proof.Machine
end

