-- ==== Sys2Proof/Machine/Operands.lean ====
section
/-! DEFINITION. What the operands of an instruction stand for: the quirk-dependent operand choices, the low nibble of a
register, the data addresses, and the pixel of the display a bit of a sprite falls on. -/

namespace Sys2Proof.Machine

/-- The value 8xy6 and 8xyE shift: V[y] under Q.shift_vy, else V[x] (43_logic_shift R183, R185). -/
def shiftSource (s : State) (x y : Reg) : Byte := if s.cfg.shiftVy then s.getV y else s.getV x

/-- The offset Bnnn adds: V[0] under Q.jump_v0, else V[x] (41_control_flow R143). -/
def jumpOffset (s : State) (x : Reg) : Byte := if s.cfg.jumpV0 then s.getV 0 else s.getV x

/-- `V[x] & 0x0F` as a number: the digit of Fx29, the key of Ex9E and ExA1 (44_index_memory R202, 46_random_timer_key R247). -/
def lowNibble (s : State) (x : Reg) : Reg := ((s.getV x).extractLsb' 0 4).toFin

/-- `KEYS[k]` for the key V[x] names (46_random_timer_key R244, R245, R247). -/
def keyPressed (s : State) (x : Reg) : Bool := s.keys.getLsbD (lowNibble s x).val

/-- EA = I + k (44_index_memory R206). -/
def State.ea (s : State) (k : Nat) : Nat := s.i.toNat + k

/-- The `len` bytes from I on are all addresses of MEM (20_memory R69): nothing to check when there are none. -/
def State.inMemory (s : State) (len : Nat) : Bool := len == 0 || s.i.toNat + len - 1 ≤ 0xFFF

/-- FONT_BASE + 5 * d (44_index_memory R202). -/
def glyphAddress (c : Config) (d : Reg) : Nat := c.fontBase + 5 * d.val

/-- Hundreds, tens, ones of a byte (44_index_memory R203). -/
def bcdDigits (b : Byte) : List Byte :=
  [BitVec.ofNat 8 (b.toNat / 100), BitVec.ofNat 8 (b.toNat / 10 % 10), BitVec.ofNat 8 (b.toNat % 10)]

/-- The keys down now that were up at the previous check, none unless a wait is armed (46_random_timer_key R246). -/
def newlyPressed (s : State) : BitVec 16 := if s.wait then s.keys &&& ~~~s.kprev else 0

/-- The least key of a key vector, if it has one (46_random_timer_key R246). -/
def leastKey (keys : BitVec 16) : Option Reg := allRegs.find? (fun k => keys.getLsbD k.val)

/-- The byte the random source gives to this execution (46_random_timer_key R240): the next byte at the port, or the free
value where the host has put none there (log 3). -/
def State.nextRandom (s : State) : Byte :=
  match s.rndIn with
  | b :: _ => b
  | [] => Config.randomByte s.rndDrawn

/-- One byte is drawn from the random source (46_random_timer_key R240). -/
def State.drawRandom (s : State) : State := { s with rndIn := s.rndIn.tail, rndDrawn := s.rndDrawn + 1 }

/-- The pixel at row `y0 + r`, column `x0 + c`, by Q.clip dropped or wrapped past an edge (45_display R221). -/
def target (c : Config) (row col : Nat) : Option (Fin 32 × Fin 64) :=
  if c.clip then
    if h : row ≤ 31 ∧ col ≤ 63 then some (⟨row, by omega⟩, ⟨col, by omega⟩) else none
  else some (⟨row % 32, Nat.mod_lt _ (by decide)⟩, ⟨col % 64, Nat.mod_lt _ (by decide)⟩)

/-- Bit 7 - c of a sprite byte, the pixel c from the left (45_display R223). -/
def spriteBit (b : Byte) (c : Nat) : Bool := b.getLsbD (7 - c)

/-- The start row and column of a draw: V[y] mod 32, V[x] mod 64 (45_display R221). -/
def drawOrigin (s : State) (x y : Reg) : Nat × Nat := ((s.getV y).toNat % 32, (s.getV x).toNat % 64)

/-- The pixels a draw visits and toggles, row by row and from left to right: those of the sprite's 1 bits that are not
dropped (45_display R221). -/
def spritePixels (s : State) (x y : Reg) (n : Nat) : List (Fin 32 × Fin 64) :=
  (List.range n).flatMap fun r =>
    (List.range 8).filterMap fun c =>
      if spriteBit (s.readMem (s.ea r)) c then target s.cfg ((drawOrigin s x y).1 + r) ((drawOrigin s x y).2 + c) else none

end Sys2Proof.Machine
end

