-- ==== Sys2Proof/Machine/Flags.lean ====
section
/-! DEFINITION. Every flag VF can be given (10_state R25), and the order in which a result and its flag are written
(42_arithmetic R166: V[x] second, VF last). -/

namespace Sys2Proof.Machine

/-- The register that doubles as the flag. -/
abbrev VF : Reg := 15

/-- A flag as the byte VF holds. -/
def flagByte (b : Bool) : Byte := if b then 1 else 0

/-- 8xy4: 1 exactly when a + b > 255 (42_arithmetic R163, R166). -/
def carryFlag (a b : Byte) : Byte := flagByte (decide (255 < a.toNat + b.toNat))

/-- 8xy5 (a - b) and 8xy7: 1 exactly when a >= b (42_arithmetic R164 to R166). -/
def notBorrowFlag (a b : Byte) : Byte := flagByte (decide (b.toNat ≤ a.toNat))

/-- 8xy6: old bit 0 of the source (43_logic_shift R183). -/
def shiftedOutRight (a : Byte) : Byte := flagByte (a.getLsbD 0)

/-- 8xyE: old bit 7 of the source (43_logic_shift R184). -/
def shiftedOutLeft (a : Byte) : Byte := flagByte (a.getLsbD 7)

/-- `V[x] <- result; V[15] <- flag`, in this order. -/
def State.setResultAndFlag (s : State) (x : Reg) (result flag : Byte) : State := (s.setV x result).setV VF flag

/-- `V[x] <- result; if Q.vf_reset = 1: V[15] <- 0` (43_logic_shift R180 to R182, R185). -/
def State.setLogicResult (s : State) (x : Reg) (result : Byte) : State :=
  if s.cfg.vfReset then s.setResultAndFlag x result 0 else s.setV x result

end Sys2Proof.Machine
end

