-- ==== Sys2Proof/Machine/Arithmetic.lean ====
section
/-! DEFINITION. Register load and arithmetic: 6xkk, 7xkk, 8xy0, 8xy4, 8xy5, 8xy7 (42_arithmetic). All arithmetic is modulo
256 (R166). -/

namespace Sys2Proof.Machine

/-- 6xkk: V[x] <- kk (R160). -/
def execLdImm (x : Reg) (kk : Byte) (s : State) : Result := .next (s.setV x kk)

/-- 7xkk: V[x] <- V[x] + kk, no flag (R161). -/
def execAddImm (x : Reg) (kk : Byte) (s : State) : Result := .next (s.setV x (s.getV x + kk))

/-- 8xy0: V[x] <- V[y] (R162). -/
def execLdReg (x y : Reg) (s : State) : Result := .next (s.setV x (s.getV y))

/-- 8xy4: V[x] <- V[x] + V[y], VF <- carry (R163). -/
def execAddReg (x y : Reg) (s : State) : Result :=
  .next (s.setResultAndFlag x (s.getV x + s.getV y) (carryFlag (s.getV x) (s.getV y)))

/-- 8xy5: V[x] <- V[x] - V[y], VF <- not borrow (R164). -/
def execSubReg (x y : Reg) (s : State) : Result :=
  .next (s.setResultAndFlag x (s.getV x - s.getV y) (notBorrowFlag (s.getV x) (s.getV y)))

/-- 8xy7: V[x] <- V[y] - V[x], VF <- not borrow (R165). -/
def execSubnReg (x y : Reg) (s : State) : Result :=
  .next (s.setResultAndFlag x (s.getV y - s.getV x) (notBorrowFlag (s.getV y) (s.getV x)))

end Sys2Proof.Machine
end

