-- ==== Sys2Proof/Machine/Control.lean ====
section
/-! DEFINITION. Control transfer: 1nnn, 2nnn, 00EE, Bnnn, 3xkk, 4xkk, 5xy0, 9xy0 (41_control_flow). -/

namespace Sys2Proof.Machine

/-- 1nnn: PC <- nnn (R140). -/
def execJp (nnn : BitVec 12) (s : State) : Result := .next (s.setPc (nnn.setWidth 16))

/-- 2nnn: push PC, PC <- nnn; StackOverflow when SP = 16 (R141). -/
def execCall (nnn : BitVec 12) (s : State) : Result :=
  if h : s.sp.val < 16 then .next ((s.push s.pc h).setPc (nnn.setWidth 16))
  else .next (s.raiseFrom .stackOverflow (.call nnn))

/-- 00EE: pop PC; StackUnderflow when SP = 0 (R142). -/
def execRet (s : State) : Result :=
  if h : 0 < s.sp.val then .next (s.popToPc h)
  else .next (s.raiseFrom .stackUnderflow .ret)

/-- Bnnn: PC <- nnn + V[0], or nnn + V[x], in 16 bits (R143). -/
def execJpOffset (nnn : BitVec 12) (x : Reg) (s : State) : Result :=
  .next (s.setPc (nnn.setWidth 16 + (jumpOffset s x).setWidth 16))

/-- 3xkk (R144). -/
def execSeImm (x : Reg) (kk : Byte) (s : State) : Result := .next (s.skipIf (s.getV x == kk))

/-- 4xkk (R145). -/
def execSneImm (x : Reg) (kk : Byte) (s : State) : Result := .next (s.skipIf (s.getV x != kk))

/-- 5xy0 (R146). -/
def execSeReg (x y : Reg) (s : State) : Result := .next (s.skipIf (s.getV x == s.getV y))

/-- 9xy0 (R147). -/
def execSneReg (x y : Reg) (s : State) : Result := .next (s.skipIf (s.getV x != s.getV y))

end Sys2Proof.Machine
end

