-- ==== Sys2Proof/Machine/Display.lean ====
section
/-! DEFINITION. Display: 00E0, Dxyn (45_display). -/

namespace Sys2Proof.Machine

/-- 00E0: every pixel 0, DIRTY <- 1 (R220). -/
def execCls (s : State) : Result := .next { s with fb := blankDisplay, dirty := true }

/-- One visited pixel of a draw: collision if it was on; it is toggled (R221). -/
def drawPixel (acc : Framebuffer × Bool) (p : Fin 32 × Fin 64) : Framebuffer × Bool :=
  (withPixel acc.1 p.1 p.2 (!pixelOf acc.1 p.1 p.2), acc.2 || pixelOf acc.1 p.1 p.2)

/-- The display after a draw, and whether any pixel was turned off (R221). -/
def drawPixels (fb : Framebuffer) (ps : List (Fin 32 × Fin 64)) : Framebuffer × Bool := ps.foldl drawPixel (fb, false)

/-- The draw itself: pixels toggled, VF <- collision, DIRTY <- 1 if a pixel was toggled, VBL consumed under Q.disp_wait
(R221, R222). -/
def State.drawSprite (s : State) (x y : Reg) (n : BitVec 4) : State :=
  let ps := spritePixels s x y n.toNat
  let drawn := drawPixels s.fb ps
  { s.setV VF (flagByte drawn.2) with
    fb := drawn.1
    dirty := s.dirty || !ps.isEmpty
    vbl := s.vbl && !s.cfg.dispWait }

/-- Dxyn: stall first, then the range check, then the draw (R221, R222, 60_exceptions R291). -/
def execDrw (x y : Reg) (n : BitVec 4) (s : State) : Result :=
  if s.cfg.dispWait && !s.vbl then .next s.stall
  else if s.inMemory n.toNat then .next (s.drawSprite x y n)
  else .next (s.raiseFrom .addressError (.drw x y n))

end Sys2Proof.Machine
end

