-- ==== Sys2Proof/Machine/IndexMemory.lean ====
section
/-! DEFINITION. Index register, loads and stores: Annn, Fx1E, Fx29, Fx33, Fx55, Fx65 (44_index_memory). The whole range of a
transfer is checked before anything is written (20_memory R69). -/

namespace Sys2Proof.Machine

/-- Annn: I <- nnn (R200). -/
def execLdI (nnn : BitVec 12) (s : State) : Result := .next (s.setI nnn.toNat)

/-- Fx1E: I <- wrapI(I + V[x]), no flag (R201). -/
def execAddIV (x : Reg) (s : State) : Result := .next (s.setI (s.i.toNat + (s.getV x).toNat))

/-- Fx29: I <- address of the glyph of the low nibble of V[x] (R202). -/
def execLdFont (x : Reg) (s : State) : Result := .next (s.setI (glyphAddress s.cfg (lowNibble s x)))

/-- Fx33: hundreds, tens, ones of V[x] at I, I+1, I+2 (R203). -/
def execLdBcd (x : Reg) (s : State) : Result :=
  if s.inMemory 3 then .next (s.writeMem (s.ea 0) (bcdDigits (s.getV x)))
  else .next (s.raiseFrom .addressError (.ldBcd x))

/-- `if Q.mem_incr = 1: I <- wrapI(I + x + 1)` (R204, R205). -/
def State.advanceI (s : State) (x : Reg) : State := if s.cfg.memIncr then s.setI (s.i.toNat + x.val + 1) else s

/-- Fx55: store V0 to Vx from I upward (R204). -/
def execStoreRegs (x : Reg) (s : State) : Result :=
  if s.inMemory (x.val + 1) then .next ((s.storeRegsTo (s.ea 0) x).advanceI x)
  else .next (s.raiseFrom .addressError (.storeRegs x))

/-- Fx65: load V0 to Vx from I upward (R205). -/
def execLoadRegs (x : Reg) (s : State) : Result :=
  if s.inMemory (x.val + 1) then .next ((s.loadRegsFrom (s.ea 0) x).advanceI x)
  else .next (s.raiseFrom .addressError (.loadRegs x))

end Sys2Proof.Machine
end

