-- ==== Sys2Proof/Machine/LogicShift.lean ====
section
/-! DEFINITION. Bitwise logic and shifts: 8xy1, 8xy2, 8xy3, 8xy6, 8xyE (43_logic_shift). -/

namespace Sys2Proof.Machine

/-- 8xy1: or (R180). -/
def execOrReg (x y : Reg) (s : State) : Result := .next (s.setLogicResult x (s.getV x ||| s.getV y))

/-- 8xy2: and (R181). -/
def execAndReg (x y : Reg) (s : State) : Result := .next (s.setLogicResult x (s.getV x &&& s.getV y))

/-- 8xy3: exclusive or (R182). -/
def execXorReg (x y : Reg) (s : State) : Result := .next (s.setLogicResult x (s.getV x ^^^ s.getV y))

/-- 8xy6: shift right by one, VF <- the bit shifted out (R183). -/
def execShrReg (x y : Reg) (s : State) : Result :=
  .next (s.setResultAndFlag x (shiftSource s x y >>> 1) (shiftedOutRight (shiftSource s x y)))

/-- 8xyE: shift left by one, VF <- the bit shifted out (R184). -/
def execShlReg (x y : Reg) (s : State) : Result :=
  .next (s.setResultAndFlag x (shiftSource s x y <<< 1) (shiftedOutLeft (shiftSource s x y)))

end Sys2Proof.Machine
end

