-- ==== Sys2Proof/Machine/RandomTimerKey.lean ====
section
/-! DEFINITION. Random number, timer access and keypad: Cxkk, Fx07, Fx15, Fx18, Ex9E, ExA1, Fx0A (46_random_timer_key). -/

namespace Sys2Proof.Machine

/-- Cxkk: V[x] <- rnd & kk, one byte drawn (R240). -/
def execRnd (x : Reg) (kk : Byte) (s : State) : Result := .next (s.drawRandom.setV x (s.nextRandom &&& kk))

/-- Fx07: V[x] <- DT (R241). -/
def execLdVDt (x : Reg) (s : State) : Result := .next (s.setV x s.dt)

/-- Fx15: DT <- V[x] (R242). -/
def execLdDtV (x : Reg) (s : State) : Result := .next { s with dt := s.getV x }

/-- Fx18: ST <- V[x] (R243). -/
def execLdStV (x : Reg) (s : State) : Result := .next { s with st := s.getV x }

/-- Ex9E: skip if the key is pressed (R244). -/
def execSkp (x : Reg) (s : State) : Result := .next (s.skipIf (keyPressed s x))

/-- ExA1: skip if the key is not pressed (R245). -/
def execSknp (x : Reg) (s : State) : Result := .next (s.skipIf (!keyPressed s x))

/-- Fx0A: the keys are recorded; with no newly pressed key the wait is armed and the instruction stalls, else V[x] <- the
least new key and the wait ends (R246). -/
def execLdVKey (x : Reg) (s : State) : Result :=
  match leastKey (newlyPressed s) with
  | none => .next { s with kprev := s.keys, wait := true }.stall
  | some k => .next ({ s with kprev := s.keys, wait := false }.setV x (BitVec.ofNat 8 k.val))

end Sys2Proof.Machine
end

