-- ==== Sys2Proof/Machine/HostInterface.lean ====
section
/-! DEFINITION. The timer state machine and the transactions and outputs of the host (60_exceptions R296 to R300,
47_host_interface). -/

namespace Sys2Proof.Machine

/-! ## Ticks -/

/-- A timer one Tick on: clamped at 0. -/
def countDown (t : Byte) : Byte := if t = 0 then 0 else t - 1

/-- Tick: both timers step, VBL <- 1 (60_exceptions R296). -/
def State.tick (s : State) : State := { s with dt := countDown s.dt, st := countDown s.st, vbl := true }

/-! ## Outputs -/

/-- `BEEP = (ST != 0)` (10_state R42, 47_host_interface R265). -/
def State.beeping (s : State) : Bool := s.st != 0

/-- LastError (47_host_interface R266). -/
def State.lastError (s : State) : Option ErrorRecord := s.err

/-- Halted (47_host_interface R267). -/
def State.halted (s : State) : Bool := s.halt

/-- ReadFramebuffer: what it returns, and the state it leaves (47_host_interface R264). -/
def State.readFramebuffer (s : State) : (Framebuffer × Bool) × State := ((s.fb, s.dirty), { s with dirty := false })

/-! ## Construction, Reset, Load, SetKeys -/

/-- Construction: a machine after its first Reset, or ConfigError and no machine (47_host_interface R261, 70 R325). -/
def construct (c : Config) : Except ConfigError State :=
  match configError c with
  | some e => .error e
  | none => .ok (State.resetWith c)

/-- Reset applied by the host: everything as at creation, the configuration kept (70_reset_and_hazards R320, R321). What the
environment still has to give (random bytes, events) is not the core's and stays (log 15). -/
def State.hostReset (s : State) : State :=
  { State.resetWith s.cfg with rndIn := s.rndIn, rndDrawn := s.rndDrawn, due := s.due, inbox := s.inbox }

/-- `LoadError`: the image is longer than 3584 bytes (47_host_interface R260). -/
inductive LoadError where
  | tooLong
deriving DecidableEq, Repr

/-- Load: the image to 0x200 upward, or LoadError and no change (47_host_interface R260). -/
def State.load (s : State) (rom : List Byte) : Except LoadError State :=
  if romMax < rom.length then .error .tooLong else .ok (s.writeMem progBase rom)

/-- The state Load leaves: unchanged on LoadError (47_host_interface R260). -/
def State.afterLoad (s : State) (rom : List Byte) : State :=
  match s.load rom with
  | .ok t => t
  | .error _ => s

/-- SetKeys (47_host_interface R262). -/
def State.setKeys (s : State) (v : BitVec 16) : State := { s with keys := v }

/-- Bytes put at the random port (47_host_interface R269; log 3). -/
def State.supplyRandom (s : State) (bytes : List Byte) : State := { s with rndIn := s.rndIn ++ bytes }

/-! ## Advance (60_exceptions R300) -/

/-- How many events of `rate` a second are due for the accumulated time `acc`: floor(acc * rate). -/
def eventsDue (acc : Rat) (rate : Nat) : Nat := (acc * rate).floor.toNat

/-- The accumulated time that is left after those events: acc - n / rate. -/
def timeLeft (acc : Rat) (rate : Nat) : Rat := acc - (eventsDue acc rate : Rat) / rate

/-- `nT` Ticks and `nI` Steps in the order `order` asks for as long as it can have what it asks for, then the Ticks left,
then the Steps left. Every interleaving of them is the answer to some `order`, namely itself; `[]` gives the reference order
(SCHED, 60_exceptions R300; log 11). -/
def interleave : Nat → Nat → List Due → List Due
  | nT + 1, nI, .tick :: order => .tick :: interleave nT nI order
  | 0, nI, .tick :: order => interleave 0 nI order
  | nT, nI + 1, .step :: order => .step :: interleave nT nI order
  | nT, 0, .step :: order => interleave nT 0 order
  | nT, nI, [] => List.replicate nT .tick ++ List.replicate nI .step

/-- TIMER_HZ (00_scope R5). -/
abbrev timerHz : Nat := 60

/-- Advance by `e` seconds: ERR cleared unless halted, the accumulators updated, the Ticks and Steps made due (R300). -/
def State.advance (s : State) (e : Rat) (order : List Due) : State :=
  { s with
    err := if s.halt then s.err else none
    accT := timeLeft (s.accT + e) timerHz
    accI := timeLeft (s.accI + e) s.cfg.rate
    due := s.due ++ interleave (eventsDue (s.accT + e) timerHz) (eventsDue (s.accI + e) s.cfg.rate) order }

/-- One host transaction. An Advance by a negative time is refused (93 U20; log 11). -/
def hostCall (call : HostCall) (s : State) : Result :=
  match call with
  | .reset => .next s.hostReset
  | .load rom => .next (s.afterLoad rom)
  | .setKeys v => .next (s.setKeys v)
  | .advance e order => if e < 0 then .refused .negativeElapsed else .next (s.advance e order)
  | .readFramebuffer => .next s.readFramebuffer.2
  | .supplyRandom bytes => .next (s.supplyRandom bytes)

end Sys2Proof.Machine
end

