-- ==== Sys2Proof/Machine/Sequencer.lean ====
section
/-! DEFINITION. The sequencer's Step (40_sequencer R120), and which of the three agents moves next (00_scope R10; log 4). -/

namespace Sys2Proof.Machine

/-- The two bytes at PC are both addresses of MEM (40_sequencer R121). -/
def State.canFetch (s : State) : Bool := s.pc.toNat ≤ 0x0FFE

/-- The word at PC (20_memory R62). -/
def State.fetchWord (s : State) : Word := s.readWord s.pc.toNat

/-- The state in which the fetched word is dispatched: PC <- pc0 + 2 (40_sequencer R122). -/
def State.fetched (s : State) : State := s.setPc (s.pc + 2)

/-- Step (40_sequencer R120): nothing while halted; a fetch outside MEM raises AddressError with opcode 0 and PC unmoved; an
illegal word raises DecodeError; else the instruction executes. -/
def stepInstr (s : State) : Result :=
  if s.halt then .next s
  else if s.canFetch then
    match decode s.fetchWord with
    | .ok i => exec i s.fetched
    | .error _ => .next (s.fetched.raise .decodeError s.fetchWord s.pc)
  else .next (s.raise .addressError 0x0000 s.pc)

/-- The next event: the one that is due in the Advance in progress; else the next host transaction; else none: Steps and
Ticks run only through Advance, and when the host does nothing the state stays (47_host_interface R268; log 4). -/
def nextEvent (s : State) : Result :=
  match s.due, s.inbox with
  | .tick :: due, _ => .next { s with due := due }.tick
  | .step :: due, _ => stepInstr { s with due := due }
  | [], call :: inbox => hostCall call { s with inbox := inbox }
  | [], [] => .next s

/-- Where a word is placed so that the next fetch finds it: PC, or 0x200 where PC cannot be fetched from. -/
def State.fetchAddress (s : State) : Word := if s.canFetch then s.pc else 0x0200

/-- `s` with the word `op` where the next Step fetches it, and that one Step due (log 16). -/
def State.placeWord (s : State) (op : Word) : State :=
  { s.writeMem s.fetchAddress.toNat [highByte op, lowByte op] with
    pc := s.fetchAddress
    halt := false
    due := [.step]
    inbox := [] }

end Sys2Proof.Machine
end

