-- ==== Sys2Proof/Machine/Step.lean ====
section
/-! DEFINITION. The step of the machine, and the host's way to place an instruction before it. -/

namespace Sys2Proof.Machine

/-- One event of the machine: a Step, a Tick or a host transaction; none, and the same state, when none is to come
(`nextEvent`). -/
def step (s : State) : Host.Outcome State Fault Refusal := nextEvent s

/-- `s` with the instruction whose bits, numbered as the opcode table numbers them, are `w` where the next Step fetches, and
that Step due; bits from `nbits` up are 0 (log 16). -/
def State.withFetchWord (s : State) (nbits w : Nat) : State := s.placeWord (BitVec.ofNat 16 (w % 2 ^ nbits))

end Sys2Proof.Machine
end

