-- ==== Sys2Proof/Safety.lean ====
section
/-! DEFINITION. The terms claims are made in: the elements of the state and which of them two states agree on, the elements an
instruction may write (10_state R41), and the invariants of 10_state R43. -/

namespace Sys2Proof.Machine

/-- An element of the state, one per byte of memory, register, stack entry and pixel (10_state R20, R41). -/
inductive Element where
  | mem (a : Nat)
  | v (r : Reg)
  | i
  | pc
  | stack (k : Fin 16)
  | sp
  | dt
  | st
  | pixel (row : Fin 32) (col : Fin 64)
  | keys
  | dirty
  | wait
  | kprev
  | vbl
  | halt
  | err
  | accT
  | accI
  | cfg
  | rndIn
  | rndDrawn
  | due
  | inbox
deriving DecidableEq, Repr

/-- The element reads the same in both states. -/
def Element.Same (s t : State) : Element → Prop
  | .mem a => t.readMem a = s.readMem a
  | .v r => t.getV r = s.getV r
  | .i => t.i = s.i
  | .pc => t.pc = s.pc
  | .stack k => t.stack[k] = s.stack[k]
  | .sp => t.sp = s.sp
  | .dt => t.dt = s.dt
  | .st => t.st = s.st
  | .pixel row col => pixelOf t.fb row col = pixelOf s.fb row col
  | .keys => t.keys = s.keys
  | .dirty => t.dirty = s.dirty
  | .wait => t.wait = s.wait
  | .kprev => t.kprev = s.kprev
  | .vbl => t.vbl = s.vbl
  | .halt => t.halt = s.halt
  | .err => t.err = s.err
  | .accT => t.accT = s.accT
  | .accI => t.accI = s.accI
  | .cfg => t.cfg = s.cfg
  | .rndIn => t.rndIn = s.rndIn
  | .rndDrawn => t.rndDrawn = s.rndDrawn
  | .due => t.due = s.due
  | .inbox => t.inbox = s.inbox

/-- Every element but the `written` ones is the same: the frame of whatever leads from `s` to `t`. -/
def Unchanged (s t : State) (written : Element → Prop) : Prop := ∀ e : Element, ¬ written e → e.Same s t

/-- The elements `raise` writes (60_exceptions R286). -/
def Element.raised (e : Element) : Prop := e = .err ∨ e = .halt

/-- The element is a pixel. -/
def Element.isPixel : Element → Prop
  | .pixel _ _ => True
  | _ => False

/-- The element is the byte of memory at `a + k` for some `k < len`. -/
def Element.memIn (a len : Nat) : Element → Prop
  | .mem b => a ≤ b ∧ b < a + len
  | _ => False

/-- The element is one of V0 to Vx. -/
def Element.regUpTo (x : Reg) : Element → Prop
  | .v r => r ≤ x
  | _ => False

/-- The access matrix (10_state R41): the elements an instruction may write besides those a raise writes. PC, advanced by the
fetch, stands in the column of an instruction that writes it again. -/
def writtenBy (i : Instr) (s : State) (e : Element) : Prop :=
  match i with
  | .cls => e.isPixel ∨ e = .dirty
  | .ret => e = .sp ∨ e = .pc
  | .jp _ | .jpOffset _ _ => e = .pc
  | .call _ => (∃ k, e = .stack k) ∨ e = .sp ∨ e = .pc
  | .seImm _ _ | .sneImm _ _ | .seReg _ _ | .sneReg _ _ | .skp _ | .sknp _ => e = .pc
  | .ldImm x _ | .addImm x _ | .ldReg x _ | .ldVDt x => e = .v x
  | .orReg x _ | .andReg x _ | .xorReg x _ => e = .v x ∨ (s.cfg.vfReset = true ∧ e = .v VF)
  | .addReg x _ | .subReg x _ | .subnReg x _ | .shrReg x _ | .shlReg x _ => e = .v x ∨ e = .v VF
  | .ldI _ | .addIV _ | .ldFont _ => e = .i
  | .rnd x _ => e = .v x ∨ e = .rndIn ∨ e = .rndDrawn
  | .drw _ _ _ => e.isPixel ∨ e = .v VF ∨ e = .dirty ∨ (s.cfg.dispWait = true ∧ (e = .vbl ∨ e = .pc))
  | .ldVKey x => e = .v x ∨ e = .wait ∨ e = .kprev ∨ e = .pc
  | .ldDtV _ => e = .dt
  | .ldStV _ => e = .st
  | .ldBcd _ => e.memIn s.i.toNat 3
  | .storeRegs x => e.memIn s.i.toNat (x.val + 1) ∨ (s.cfg.memIncr = true ∧ e = .i)
  | .loadRegs x => e.regUpTo x ∨ (s.cfg.memIncr = true ∧ e = .i)

/-- The instruction can raise an exception (60_exceptions R280, R291). -/
def canRaise : Instr → Prop
  | .call _ | .ret | .drw _ _ _ | .ldBcd _ | .storeRegs _ | .loadRegs _ => True
  | _ => False

/-- Executing `i` in `s` ANSWERS A NEXT STATE, which meets `post` and agrees with `s` but for `written`. -/
def Executes (i : Instr) (s : State) (post : State → Prop) (written : Element → Prop) : Prop :=
  ∃ t, exec i s = .next t ∧ post t ∧ Unchanged s t written

/-- Executing `i` in `s` raises the fatal exception `k`: it answers a next state with ERR = (k, the word, pc0), HALT = 1, and
everything else, PC = pc0 + 2 included, as it was (60_exceptions R286, 40_sequencer R127). -/
def RaisesFatal (i : Instr) (s : State) (k : ErrorKind) : Prop :=
  Executes i s (fun t => t.err = some ⟨k, encode i, s.pc - 2⟩ ∧ t.halt = true) Element.raised

/-- The row of the opcode table `i` is encoded by (30_encoding R95). -/
def HasRow (i : Instr) (mask wanted : Word) : Prop := encode i &&& mask = wanted

/-- The 1 bits of a sprite that fall on the pixel, by Q.clip past an edge (45_display R221, R223): byte r, pixel c from the
left, start row V[y] mod 32, start column V[x] mod 64. -/
def Covered (s : State) (x y : Reg) (n : BitVec 4) (row : Fin 32) (col : Fin 64) : Prop :=
  ∃ r < n.toNat, ∃ c < 8, (s.readMem (s.i.toNat + r)).getLsbD (7 - c) = true ∧
    if s.cfg.clip then (s.getV y).toNat % 32 + r = row.val ∧ (s.getV x).toNat % 64 + c = col.val
    else ((s.getV y).toNat % 32 + r) % 32 = row.val ∧ ((s.getV x).toNat % 64 + c) % 64 = col.val

/-- A draw in `s` does not wait: Q.disp_wait = 0 or a Tick has occurred (45_display R222). -/
def DrawReady (s : State) : Prop := s.cfg.dispWait = false ∨ s.vbl = true

/-- The bytes a draw of `n` rows reads are all in MEM; it reads none when n = 0 (45_display R221). -/
def SpriteInMemory (s : State) (n : BitVec 4) : Prop := n = 0 ∨ s.i.toNat + n.toNat - 1 ≤ 0xFFF

/-- The invariants of 10_state R43 (and R26, R27, R28, R38), with the configuration valid (47_host_interface R261) and the
memory in canonical form. -/
structure Inv (s : State) : Prop where
  /-- The configuration is one a machine can be constructed with. -/
  config : ConfigValid s.cfg
  /-- Memory is in canonical form. -/
  memory : Memory.wf s.cfg s.mem
  /-- `I <= 0xFFF` (R26). -/
  index : s.i.toNat ≤ 0xFFF
  /-- `PC <= 0x10FE` (R27). -/
  counter : s.pc.toNat ≤ 0x10FE
  /-- Every stack entry is a return address a call can push: at most 0x1000 (R28, R122). -/
  returns : ∀ k : Fin 16, s.stack[k].toNat ≤ 0x1000
  /-- `HALT = 1` implies `ERR != none`. -/
  halted : s.halt = true → s.err ≠ none
  /-- `0 <= ACC_T < 1/60` (R38). -/
  ticks : 0 ≤ s.accT ∧ s.accT < 1 / 60
  /-- `0 <= ACC_I < 1/RATE` (R38). -/
  steps : 0 ≤ s.accI ∧ s.accI < 1 / (s.cfg.rate : Rat)

/-! ## The next event (00_scope R10; log 4) -/

/-- The next event is a Tick. -/
def TickIsNext (s : State) : Prop := ∃ due, s.due = .tick :: due

/-- The next event is a Step. -/
def StepIsNext (s : State) : Prop := ∃ due, s.due = .step :: due

/-- The next event is the host's transaction `call`. -/
def CallIsNext (s : State) (call : HostCall) : Prop := s.due = [] ∧ ∃ rest, s.inbox = call :: rest

/-- The next event is a Step of a running machine that executes `i`. -/
def ExecutesNext (s : State) (i : Instr) : Prop :=
  StepIsNext s ∧ s.halt = false ∧ s.canFetch = true ∧ decode s.fetchWord = .ok i

/-- A waiting machine stands at an Fx0A: PC can be fetched from and the word there is one (10_state R33, R43). -/
def AtKeyWait (s : State) : Prop := s.wait = true → s.canFetch = true ∧ ∃ x, decode s.fetchWord = .ok (.ldVKey x)

/-- A safe run: no exception has stopped the machine (00_scope R12: "it is not a successful end of a program"). -/
abbrev Safe (s : State) : Prop := s.halt = false

end Sys2Proof.Machine
end

