-- ==== Sys2Proof/Certificates/Slice0/Obligations.lean ====
section
/-! DEFINITION. The statements for the provers. `exec i s` is stated of the state in which an instruction is dispatched: PC is
already pc0 + 2 (40_sequencer R120, R122; log 6). Result statements are also completion statements: their conclusion is that
`exec` answers a next state (`Executes`). -/

open Sys2Proof Sys2Proof.Machine

/-! ## Encoding -/

/-- Words written out from the encodings of 30_encoding R91 and R95, one at least of each format, and what they stand for. -/
def Obligations.SpecWordsDecode : Prop :=
  decode 0x00E0 = .ok .cls ∧ decode 0x00EE = .ok .ret ∧ decode 0x1234 = .ok (.jp 0x234) ∧
  decode 0x6105 = .ok (.ldImm 1 0x05) ∧ decode 0xF129 = .ok (.ldFont 1) ∧ decode 0xD015 = .ok (.drw 0 1 5) ∧
  decode 0x8126 = .ok (.shrReg 1 2) ∧ decode 0xB2F0 = .ok (.jpOffset 0x2F0 2) ∧ decode 0xE19E = .ok (.skp 1) ∧
  decode 0x5121 = .error .skipEqual ∧ decode 0x0000 = .error .machineCall

/-- Decoding the word of a well-formed instruction gives it back, every operand at every value. -/
def Obligations.EncodeThenDecode : Prop := ∀ i : Instr, i.wellFormed = true → decode (encode i) = .ok i

/-- A word that decodes is the word of the instruction it decodes to, which is well-formed: no two words are one instruction. -/
def Obligations.DecodeThenEncode : Prop := ∀ (w : Word) (i : Instr), decode w = .ok i → i.wellFormed = true ∧ encode i = w

/-- "a word `op` is this instruction exactly when `op & mask = match`": a word decodes to an instruction of the row it
matches and only of that row (rows of different instructions differ in `match`). -/
def Obligations.WordIsInstructionByMaskAndMatch : Prop :=
  (∀ (w : Word) (i : Instr), decode w = .ok i → w &&& rowMask i = rowMatch i) ∧
  (∀ (w : Word) (j : Instr), w &&& rowMask j = rowMatch j → ∃ i, decode w = .ok i ∧ rowMask i = rowMask j ∧ rowMatch i = rowMatch j)

/-- The illegal words are those of the table of R96, family by family. -/
def Obligations.IllegalWordsAreThoseOfTheTable : Prop :=
  ∀ w : Word, (∃ r, decode w = .error r) ↔
    (w.toNat / 4096 = 0x0 ∧ w ≠ 0x00E0 ∧ w ≠ 0x00EE) ∨
    (w.toNat / 4096 = 0x5 ∧ w.toNat % 16 ≠ 0) ∨
    (w.toNat / 4096 = 0x8 ∧ w.toNat % 16 ∈ [0x8, 0x9, 0xA, 0xB, 0xC, 0xD, 0xF]) ∨
    (w.toNat / 4096 = 0x9 ∧ w.toNat % 16 ≠ 0) ∨
    (w.toNat / 4096 = 0xE ∧ w.toNat % 256 ∉ [0x9E, 0xA1]) ∨
    (w.toNat / 4096 = 0xF ∧ w.toNat % 256 ∉ [0x07, 0x0A, 0x15, 0x18, 0x1E, 0x29, 0x33, 0x55, 0x65])

/-! ## The Step -/

/-- A step runs the decoded instruction: when a Step is the next event, the machine is not halted, both bytes at PC are in
MEM and they decode to `i`, then the step is `exec i` with PC advanced by 2. In general (R268; that the events to come stand
in `due` and `inbox` is log 4): a due Step is `stepInstr`, a due Tick is `tick`, with nothing due the next transaction of the
host is `hostCall`, and with no event to come the state simply stays. -/
def Obligations.StepExecutesDecodedInstruction : Prop :=
  (∀ (s : State) (i : Instr) (due : List Due), s.halt = false → s.pc.toNat ≤ 0x0FFE →
    decode (wordOfBytes (s.readMem s.pc.toNat) (s.readMem (s.pc.toNat + 1))) = .ok i → s.due = .step :: due →
    step s = exec i { s with pc := s.pc + 2, due := due }) ∧
  (∀ (s : State) (due : List Due), s.due = .step :: due → step s = stepInstr { s with due := due }) ∧
  (∀ (s : State) (due : List Due), s.due = .tick :: due → step s = .next { s with due := due }.tick) ∧
  (∀ (s : State) (call : HostCall) (rest : List HostCall), s.due = [] → s.inbox = call :: rest →
    step s = hostCall call { s with inbox := rest }) ∧
  (∀ s : State, s.due = [] → s.inbox = [] → step s = .next s)

/-- R125 (the spec's decision D19): while HALT = 1 a Step does nothing, and HALT is left only by Reset (that an event is the
host's Reset stands in `inbox`: log 4). -/
def Obligations.HaltedStepsDoNothingUntilReset : Prop :=
  (∀ s : State, s.halt = true → stepInstr s = .next s) ∧
  (∀ s t : State, step s = .next t → s.halt = true → t.halt = false → s.due = [] ∧ ∃ rest, s.inbox = .reset :: rest)

/-- R121 (the spec's decision D6): a fetch outside MEM raises AddressError with opcode 0, PC unmoved, nothing executed. -/
def Obligations.FetchOutsideMemoryRaises : Prop :=
  ∀ s : State, s.halt = false → 0x0FFE < s.pc.toNat →
    ∃ t, stepInstr s = .next t ∧ t.err = some ⟨.addressError, 0x0000, s.pc⟩ ∧ t.halt = true ∧ Unchanged s t Element.raised

/-- R281: an illegal word raises DecodeError with the word and pc0; PC = pc0 + 2; HALT becomes 1 exactly under
ON_INVALID = HALT; nothing else changes. -/
def Obligations.IllegalWordRaisesDecodeError : Prop :=
  ∀ (s : State) (r : Reject), s.halt = false → s.pc.toNat ≤ 0x0FFE →
    decode (wordOfBytes (s.readMem s.pc.toNat) (s.readMem (s.pc.toNat + 1))) = .error r →
    ∃ t, stepInstr s = .next t ∧
      t.err = some ⟨.decodeError, wordOfBytes (s.readMem s.pc.toNat) (s.readMem (s.pc.toNat + 1)), s.pc⟩ ∧
      t.pc = s.pc + 2 ∧ (t.halt = true ↔ s.cfg.onInvalid = .halt) ∧ Unchanged s t (fun e => e.raised ∨ e = .pc)

/-- R127, R288 (the spec's decision D17): a Step of a running machine that leaves another ERR, or HALT = 1, differs from the state before it in ERR,
HALT and PC only; PC is pc0 + 2, or pc0 for a fetch fault, and ERR.pc is pc0. -/
def Obligations.ExceptionsArePrecise : Prop :=
  ∀ s t : State, s.halt = false → stepInstr s = .next t → (t.err ≠ s.err ∨ t.halt = true) →
    Unchanged s t (fun e => e.raised ∨ e = .pc) ∧ (∃ k op, t.err = some ⟨k, op, s.pc⟩) ∧
    (t.pc = s.pc + 2 ∨ (0x0FFE < s.pc.toNat ∧ t.pc = s.pc))

/-- The access matrix of R41, its instruction rows: every instruction answers a next state and leaves every element it is
not listed for untouched; only an instruction with a check of its own can write ERR and HALT (R291). -/
def Obligations.InstructionsWriteOnlyTheirElements : Prop :=
  ∀ (i : Instr) (s : State), ∃ t, exec i s = .next t ∧ Unchanged s t (fun e => writtenBy i s e ∨ (canRaise i ∧ e.raised))

/-- R12 with U20: every event of every state answers a next state, but an Advance by a negative time, which is refused. -/
def Obligations.OnlyNegativeTimeIsRefused : Prop :=
  ∀ s : State, (∃ t, step s = .next t) ∨
    (step s = .refused .negativeElapsed ∧ s.due = [] ∧ ∃ e order rest, s.inbox = .advance e order :: rest ∧ e < 0)

/-! ## Invariants -/

/-- Every event keeps the invariants of R43: whatever the state, the instruction, the Tick or the host's transaction. -/
def Obligations.EveryEventKeepsTheInvariants : Prop := ∀ s t : State, Inv s → step s = .next t → Inv t

/-- A machine right after Reset meets the invariants, for every configuration it can be constructed with. -/
def Obligations.ResetMeetsTheInvariants : Prop := ∀ c : Config, ConfigValid c → Inv (State.resetWith c)

/-- The configuration is written by no event (R39; that it stands in the state is log 1). -/
def Obligations.ConfigurationNeverChanges : Prop := ∀ s t : State, step s = .next t → t.cfg = s.cfg

/-- R43, R33: a machine that waits for a key stands at an Fx0A, after every event of such a machine but a Load, which may
put another word there (R333(d); log 14): after every Step, every Tick and every other transaction of the host. -/
def Obligations.WaitingMachineStandsAtKeyWait : Prop :=
  (∀ s t : State, AtKeyWait s → stepInstr s = .next t → AtKeyWait t) ∧
  (∀ s t : State, AtKeyWait s → (∀ rom, ¬CallIsNext s (.load rom)) → step s = .next t → AtKeyWait t)

/-- R43: DT and ST change only by Fx15, Fx18, Tick and Reset, and a Tick never increases them: after any event a timer is as
before, or the event was a Tick, the host's Reset, or a Step of a running machine that executed the timer's instruction. -/
def Obligations.TimersChangeOnlyByTheirWriters : Prop :=
  ∀ s t : State, step s = .next t →
    (t.dt = s.dt ∨ (TickIsNext s ∧ t.dt.toNat ≤ s.dt.toNat) ∨ (CallIsNext s .reset ∧ t.dt = 0) ∨
      ∃ x, ExecutesNext s (.ldDtV x) ∧ t.dt = s.getV x) ∧
    (t.st = s.st ∨ (TickIsNext s ∧ t.st.toNat ≤ s.st.toNat) ∨ (CallIsNext s .reset ∧ t.st = 0) ∨
      ∃ x, ExecutesNext s (.ldStV x) ∧ t.st = s.getV x)

/-- R31: the key vector is constant during one Advance, while events of it are due. -/
def Obligations.KeysAreConstantDuringAnAdvance : Prop :=
  ∀ s t : State, s.due ≠ [] → step s = .next t → t.keys = s.keys

/-! ## What cannot be observed -/

/-- R126 ("The only free input of a Step is `rnd`, and only Cxkk uses it"): whatever the random source holds, every other
instruction ends in the same state, the source left as it was (how the source stands in the state: log 3). -/
def Obligations.OnlyRandomReadsTheRandomSource : Prop :=
  ∀ (i : Instr) (s : State) (bytes : List Byte) (n : Nat), (∀ x kk, i ≠ .rnd x kk) →
    ∃ t, exec i s = .next t ∧ t.rndIn = s.rndIn ∧ t.rndDrawn = s.rndDrawn ∧
      exec i { s with rndIn := bytes, rndDrawn := n } = .next { t with rndIn := bytes, rndDrawn := n }

/-- R294, R32, R38: no instruction reads ERR, DIRTY, ACC_T or ACC_I: whatever they hold, it ends in states that agree on
everything else. -/
def Obligations.HostElementsDoNotReachTheProgram : Prop :=
  ∀ (i : Instr) (s : State) (err : Option ErrorRecord) (dirty : Bool) (accT accI : Rat),
    ∃ t u, exec i s = .next t ∧ exec i { s with err := err, dirty := dirty, accT := accT, accI := accI } = .next u ∧
      Unchanged t u (fun e => e = .err ∨ e = .dirty ∨ e = .accT ∨ e = .accI)

/-- R28: stack entries at index SP and above are never read: whatever they hold, an instruction ends in states that agree on
everything but the entries at the new SP and above. -/
def Obligations.DeadStackEntriesAreNeverRead : Prop :=
  ∀ (i : Instr) (s : State) (stack : Vector Word 16), (∀ k : Fin 16, k.val < s.sp.val → stack[k] = s.stack[k]) →
    ∃ t u, exec i s = .next t ∧ exec i { s with stack := stack } = .next u ∧
      Unchanged t u (fun e => ∃ k : Fin 16, e = .stack k ∧ t.sp.val ≤ k.val)

/-- R264, R32: an event that leaves DIRTY = 0 leaves every pixel as it was, unless it is the host's Reset (that an event is
the host's stands in `inbox`: log 4). -/
def Obligations.CleanDisplayIsUnchanged : Prop :=
  ∀ s t : State, step s = .next t → t.dirty = false →
    (∀ row col, pixelOf t.fb row col = pixelOf s.fb row col) ∨ ∃ rest, s.due = [] ∧ s.inbox = .reset :: rest

/-! ## Control transfer -/

/-- R140, jump. -/
def Obligations.JumpWritesPc : Prop :=
  ∀ (nnn : BitVec 12), HasRow (.jp nnn) 0xF000 0x1000 ∧
    ∀ s : State, Executes (.jp nnn) s (fun t => t.pc.toNat = nnn.toNat) (fun e => e = .pc)

/-- R141, call: pushes the return address and jumps; with 16 addresses held it raises StackOverflow. -/
def Obligations.CallPushesOrOverflows : Prop :=
  ∀ (nnn : BitVec 12), HasRow (.call nnn) 0xF000 0x2000 ∧
    ∀ s : State,
      (∀ h : s.sp.val < 16, Executes (.call nnn) s
        (fun t => t.stack[s.sp.val] = s.pc ∧ t.sp.val = s.sp.val + 1 ∧ t.pc.toNat = nnn.toNat)
        (fun e => e = .stack ⟨s.sp.val, h⟩ ∨ e = .sp ∨ e = .pc)) ∧
      (s.sp.val = 16 → RaisesFatal (.call nnn) s .stackOverflow)

/-- R142, return: pops the most recent return address; with none held it raises StackUnderflow. -/
def Obligations.ReturnPopsOrUnderflows : Prop :=
  HasRow .ret 0xFFFF 0x00EE ∧
    ∀ s : State,
      (∀ h : 0 < s.sp.val, Executes .ret s
        (fun t => t.sp.val = s.sp.val - 1 ∧ t.pc = s.stack[s.sp.val - 1]'(by omega)) (fun e => e = .sp ∨ e = .pc)) ∧
      (s.sp.val = 0 → RaisesFatal .ret s .stackUnderflow)

/-- R143, jump with offset: the sum in 16 bits (the spec's decision D7), V0 or Vx by Q.jump_v0 (D3); nothing else is written. -/
def Obligations.JumpOffsetAddsTheChosenRegister : Prop :=
  ∀ (nnn : BitVec 12) (x : Reg), HasRow (.jpOffset nnn x) 0xF000 0xB000 ∧
    ∀ s : State, Executes (.jpOffset nnn x) s
      (fun t => t.pc.toNat = nnn.toNat + (if s.cfg.jumpV0 then (s.getV 0).toNat else (s.getV x).toNat)) (fun e => e = .pc)

/-- R144, R145: 3xkk and 4xkk skip one instruction by comparing V[x] with kk. -/
def Obligations.ImmediateSkips : Prop :=
  ∀ (x : Reg) (kk : Byte), HasRow (.seImm x kk) 0xF000 0x3000 ∧ HasRow (.sneImm x kk) 0xF000 0x4000 ∧
    ∀ s : State,
      Executes (.seImm x kk) s (fun t => t.pc = if s.getV x = kk then s.pc + 2 else s.pc) (fun e => e = .pc) ∧
      Executes (.sneImm x kk) s (fun t => t.pc = if s.getV x = kk then s.pc else s.pc + 2) (fun e => e = .pc)

/-- R146, R147: 5xy0 and 9xy0 skip one instruction by comparing V[x] with V[y]; 5xy1 to 5xyF and 9xy1 to 9xyF are illegal. -/
def Obligations.RegisterSkips : Prop :=
  ∀ x y : Reg, HasRow (.seReg x y) 0xF00F 0x5000 ∧ HasRow (.sneReg x y) 0xF00F 0x9000 ∧
    (∀ z : BitVec 4, z ≠ 0 →
      decode (packXYN 0x5 x y z) = .error .skipEqual ∧ decode (packXYN 0x9 x y z) = .error .skipDiffer) ∧
    ∀ s : State,
      Executes (.seReg x y) s (fun t => t.pc = if s.getV x = s.getV y then s.pc + 2 else s.pc) (fun e => e = .pc) ∧
      Executes (.sneReg x y) s (fun t => t.pc = if s.getV x = s.getV y then s.pc else s.pc + 2) (fun e => e = .pc)

/-- R122: a call to an address that holds 00EE, followed by that return, leaves PC just after the call and SP as it was. -/
def Obligations.CallThenReturnRoundTrip : Prop :=
  ∀ (s : State) (nnn : BitVec 12), s.halt = false → s.pc.toNat ≤ 0x0FFE → nnn.toNat ≤ 0x0FFE → s.sp.val < 16 →
    decode (s.readWord s.pc.toNat) = .ok (.call nnn) → decode (s.readWord nnn.toNat) = .ok .ret →
    ∃ t u, stepInstr s = .next t ∧ stepInstr t = .next u ∧ u.pc = s.pc + 2 ∧ u.sp = s.sp ∧ u.halt = false

/-! ## Load and arithmetic -/

/-- R160, R161, R162: load immediate, add immediate (modulo 256, no flag: the spec's decision D27), copy; only V[x] is written. -/
def Obligations.LoadAddAndCopy : Prop :=
  ∀ (x y : Reg) (kk : Byte),
    HasRow (.ldImm x kk) 0xF000 0x6000 ∧ HasRow (.addImm x kk) 0xF000 0x7000 ∧ HasRow (.ldReg x y) 0xF00F 0x8000 ∧
    ∀ s : State,
      Executes (.ldImm x kk) s (fun t => t.getV x = kk) (fun e => e = .v x) ∧
      Executes (.addImm x kk) s (fun t => (t.getV x).toNat = ((s.getV x).toNat + kk.toNat) % 256) (fun e => e = .v x) ∧
      Executes (.ldReg x y) s (fun t => t.getV x = s.getV y) (fun e => e = .v x)

/-- R163: the sum modulo 256 in V[x], the carry in VF, written last: with x = F VF holds the carry. -/
def Obligations.AddSetsCarry : Prop :=
  ∀ x y : Reg, HasRow (.addReg x y) 0xF00F 0x8004 ∧
    ∀ s : State, Executes (.addReg x y) s
      (fun t => (x ≠ VF → (t.getV x).toNat = ((s.getV x).toNat + (s.getV y).toNat) % 256) ∧
        (t.getV VF).toNat = if (s.getV x).toNat + (s.getV y).toNat > 255 then 1 else 0)
      (fun e => e = .v x ∨ e = .v VF)

/-- R164, R165: V[x] - V[y] and V[y] - V[x], by the two cases of the rule, VF = 1 exactly without a borrow, written last. -/
def Obligations.SubtractionsSetNotBorrow : Prop :=
  ∀ x y : Reg, HasRow (.subReg x y) 0xF00F 0x8005 ∧ HasRow (.subnReg x y) 0xF00F 0x8007 ∧
    ∀ s : State,
      Executes (.subReg x y) s
        (fun t => (x ≠ VF → (t.getV x).toNat = if (s.getV y).toNat ≤ (s.getV x).toNat
            then (s.getV x).toNat - (s.getV y).toNat else (s.getV x).toNat + 256 - (s.getV y).toNat) ∧
          (t.getV VF).toNat = if (s.getV y).toNat ≤ (s.getV x).toNat then 1 else 0)
        (fun e => e = .v x ∨ e = .v VF) ∧
      Executes (.subnReg x y) s
        (fun t => (x ≠ VF → (t.getV x).toNat = if (s.getV x).toNat ≤ (s.getV y).toNat
            then (s.getV y).toNat - (s.getV x).toNat else (s.getV y).toNat + 256 - (s.getV x).toNat) ∧
          (t.getV VF).toNat = if (s.getV x).toNat ≤ (s.getV y).toNat then 1 else 0)
        (fun e => e = .v x ∨ e = .v VF)

/-! ## Logic and shifts -/

/-- R180, R181, R182 with R185: or, and, exclusive or, bit by bit; under Q.vf_reset VF is cleared after the result, else VF
changes only as the register x. -/
def Obligations.LogicOperations : Prop :=
  ∀ x y : Reg, HasRow (.orReg x y) 0xF00F 0x8001 ∧ HasRow (.andReg x y) 0xF00F 0x8002 ∧ HasRow (.xorReg x y) 0xF00F 0x8003 ∧
    ∀ s : State, ∀ p ∈ [(Instr.orReg x y, Bool.or), (Instr.andReg x y, Bool.and), (Instr.xorReg x y, Bool.xor)],
      Executes p.1 s
        (fun t => (¬(s.cfg.vfReset = true ∧ x = VF) →
            ∀ k, k < 8 → (t.getV x).getLsbD k = p.2 ((s.getV x).getLsbD k) ((s.getV y).getLsbD k)) ∧
          (s.cfg.vfReset = true → t.getV VF = 0))
        (fun e => e = .v x ∨ (s.cfg.vfReset = true ∧ e = .v VF))

/-- R183, R184 with R185: shift right and left by one of V[y] or V[x], by Q.shift_vy; VF is the bit shifted out, written
last. -/
def Obligations.ShiftsMoveTheOutgoingBitToVF : Prop :=
  ∀ x y : Reg, HasRow (.shrReg x y) 0xF00F 0x8006 ∧ HasRow (.shlReg x y) 0xF00F 0x800E ∧
    ∀ (s : State) (src : Nat), src = (if s.cfg.shiftVy then s.getV y else s.getV x).toNat →
      Executes (.shrReg x y) s
        (fun t => (x ≠ VF → (t.getV x).toNat = src / 2) ∧ (t.getV VF).toNat = src % 2) (fun e => e = .v x ∨ e = .v VF) ∧
      Executes (.shlReg x y) s
        (fun t => (x ≠ VF → (t.getV x).toNat = src * 2 % 256) ∧ (t.getV VF).toNat = src / 128) (fun e => e = .v x ∨ e = .v VF)

/-! ## Index register and memory -/

/-- R200, R201: I <- nnn; I <- I + V[x], reduced by I_OVF past 0xFFF; no flag (the spec's decision D27). -/
def Obligations.IndexLoadAndAdd : Prop :=
  ∀ (nnn : BitVec 12) (x : Reg), HasRow (.ldI nnn) 0xF000 0xA000 ∧ HasRow (.addIV x) 0xF0FF 0xF01E ∧
    ∀ s : State,
      Executes (.ldI nnn) s (fun t => t.i.toNat = nnn.toNat) (fun e => e = .i) ∧
      Executes (.addIV x) s (fun t => t.i.toNat =
        match s.cfg.iOvf with
        | .mask => (s.i.toNat + (s.getV x).toNat) % 4096
        | .saturate => min (s.i.toNat + (s.getV x).toNat) 0xFFF) (fun e => e = .i)

/-- R202: I <- FONT_BASE + 5 * (low nibble of V[x]: the spec's decision D9), below 0x200, on a machine with a valid
configuration (R261). -/
def Obligations.FontAddressOfLowNibble : Prop :=
  ∀ x : Reg, HasRow (.ldFont x) 0xF0FF 0xF029 ∧
    ∀ s : State, ConfigValid s.cfg → Executes (.ldFont x) s
      (fun t => t.i.toNat = s.cfg.fontBase + 5 * ((s.getV x).toNat % 16) ∧ t.i.toNat < 0x200) (fun e => e = .i)

/-- R203: hundreds, tens, ones of V[x] at I, I+1, I+2, I unchanged; AddressError, and nothing written, when I + 2 > 0xFFF. -/
def Obligations.BcdStoresThreeDigits : Prop :=
  ∀ x : Reg, HasRow (.ldBcd x) 0xF0FF 0xF033 ∧
    ∀ s : State, Memory.wf s.cfg s.mem →
      (s.i.toNat + 2 ≤ 0xFFF → Executes (.ldBcd x) s
        (fun t => (t.readMem s.i.toNat).toNat = (s.getV x).toNat / 100 ∧
          (t.readMem (s.i.toNat + 1)).toNat = (s.getV x).toNat / 10 % 10 ∧
          (t.readMem (s.i.toNat + 2)).toNat = (s.getV x).toNat % 10)
        (fun e => e.memIn s.i.toNat 3)) ∧
      (0xFFF < s.i.toNat + 2 → RaisesFatal (.ldBcd x) s .addressError)

/-- R204: V0 to Vx at I to I + x; I advanced by x + 1 (reduced by I_OVF) under Q.mem_incr, else unchanged; AddressError, and
nothing written, when I + x > 0xFFF. -/
def Obligations.BlockStoreWritesV0ToVx : Prop :=
  ∀ x : Reg, HasRow (.storeRegs x) 0xF0FF 0xF055 ∧
    ∀ s : State, Memory.wf s.cfg s.mem →
      (s.i.toNat + x.val ≤ 0xFFF → Executes (.storeRegs x) s
        (fun t => (∀ r : Reg, r ≤ x → t.readMem (s.i.toNat + r.val) = s.getV r) ∧
          (s.cfg.memIncr = true → t.i = wrapI s.cfg (s.i.toNat + x.val + 1)))
        (fun e => e.memIn s.i.toNat (x.val + 1) ∨ (s.cfg.memIncr = true ∧ e = .i))) ∧
      (0xFFF < s.i.toNat + x.val → RaisesFatal (.storeRegs x) s .addressError)

/-- R205: V0 to Vx from I to I + x, the registers above Vx unchanged; I as in R204; AddressError, and no register changed,
when I + x > 0xFFF. -/
def Obligations.BlockLoadReadsV0ToVx : Prop :=
  ∀ x : Reg, HasRow (.loadRegs x) 0xF0FF 0xF065 ∧
    ∀ s : State,
      (s.i.toNat + x.val ≤ 0xFFF → Executes (.loadRegs x) s
        (fun t => (∀ r : Reg, r ≤ x → t.getV r = s.readMem (s.i.toNat + r.val)) ∧
          (s.cfg.memIncr = true → t.i = wrapI s.cfg (s.i.toNat + x.val + 1)))
        (fun e => e.regUpTo x ∨ (s.cfg.memIncr = true ∧ e = .i))) ∧
      (0xFFF < s.i.toNat + x.val → RaisesFatal (.loadRegs x) s .addressError)

/-- R26: `wrapI`, and that it stores a value up to 0xFFF as it is. -/
def Obligations.IndexWritesAreWrapped : Prop :=
  ∀ (c : Config) (n : Nat), (wrapI c n).toNat ≤ 0xFFF ∧
    (c.iOvf = .mask → (wrapI c n).toNat = n % 4096) ∧ (c.iOvf = .saturate → (wrapI c n).toNat = min n 0xFFF)

/-- R74: the next fetch from a block that Fx55 has just stored reads exactly the bytes stored. -/
def Obligations.FetchSeesStoresAtOnce : Prop :=
  ∀ (s : State) (x r q : Reg), Memory.wf s.cfg s.mem → s.i.toNat + x.val ≤ 0xFFF → r ≤ x → q ≤ x → q.val = r.val + 1 →
    ∃ t, exec (.storeRegs x) s = .next t ∧
      (t.setPc (BitVec.ofNat 16 (s.i.toNat + r.val))).fetchWord = wordOfBytes (s.getV r) (s.getV q)

/-! ## Display -/

/-- R220: every pixel 0, DIRTY 1 even if the display was blank; nothing else. -/
def Obligations.ClearBlanksTheDisplay : Prop :=
  HasRow .cls 0xFFFF 0x00E0 ∧
    ∀ s : State, Executes .cls s (fun t => (∀ row col, pixelOf t.fb row col = false) ∧ t.dirty = true)
      (fun e => e.isPixel ∨ e = .dirty)

/-- R221: a draw that does not wait toggles exactly the pixels its 1 bits fall on (`Covered`), sets VF to the collision and
DIRTY if a pixel was toggled, consumes VBL under Q.disp_wait; it raises AddressError, drawing nothing, when the sprite does
not lie in MEM; it stalls first of all when it has to wait. (The start reduced, DIRTY: the spec's decisions D14, D13; the wait: D11.) -/
def Obligations.DrawTogglesTheCoveredPixels : Prop :=
  ∀ (x y : Reg) (n : BitVec 4), HasRow (.drw x y n) 0xF000 0xD000 ∧
    ∀ s : State,
      (DrawReady s → SpriteInMemory s n → Executes (.drw x y n) s
        (fun t => (∀ row col, pixelOf t.fb row col = true ↔ (Covered s x y n row col ↔ pixelOf s.fb row col = false)) ∧
          (t.getV VF = 1 ∨ t.getV VF = 0) ∧
          (t.getV VF = 1 ↔ ∃ row col, Covered s x y n row col ∧ pixelOf s.fb row col = true) ∧
          (t.dirty = true ↔ s.dirty = true ∨ ∃ row col, Covered s x y n row col) ∧
          (s.cfg.dispWait = true → t.vbl = false))
        (fun e => e.isPixel ∨ e = .v VF ∨ e = .dirty ∨ (s.cfg.dispWait = true ∧ e = .vbl))) ∧
      (DrawReady s → ¬SpriteInMemory s n → RaisesFatal (.drw x y n) s .addressError) ∧
      (¬DrawReady s → Executes (.drw x y n) s (fun t => t.pc = s.pc - 2) (fun e => e = .pc))

/-- R222 (the spec's decision D11): between two completed draws there is a Tick. Under Q.disp_wait a draw that
completes leaves VBL = 0; while VBL = 0 every draw stalls; and, whatever the configuration, no event but a Tick turns VBL
from 0 to 1. After a Tick a draw need not wait. -/
def Obligations.DrawsAreSeparatedByTicks : Prop :=
  (∀ (x y : Reg) (n : BitVec 4) (s : State), s.cfg.dispWait = true →
    (s.vbl = true → SpriteInMemory s n → ∃ t, exec (.drw x y n) s = .next t ∧ t.vbl = false ∧
      ∀ (x' y' : Reg) (n' : BitVec 4), Executes (.drw x' y' n') t (fun u => u.pc = t.pc - 2) (fun e => e = .pc)) ∧
    (s.vbl = false → Executes (.drw x y n) s (fun t => t.pc = s.pc - 2) (fun e => e = .pc)) ∧
    DrawReady s.tick) ∧
  (∀ s t : State, s.vbl = false → step s = .next t → t.vbl = true → TickIsNext s)

/-- R221(f): the same sprite drawn twice at the same place (by registers a draw does not write) restores the display, and VF
is 1 after the second draw exactly if a bit of it was on after the first; a Tick between them lets the second proceed under
Q.disp_wait too. -/
def Obligations.DrawTwiceRestoresTheDisplay : Prop :=
  ∀ (x y : Reg) (n : BitVec 4) (s : State), x ≠ VF → y ≠ VF → DrawReady s → SpriteInMemory s n →
    ∃ t u, exec (.drw x y n) s = .next t ∧ exec (.drw x y n) t.tick = .next u ∧
      (∀ row col, pixelOf u.fb row col = pixelOf s.fb row col) ∧
      (u.getV VF = 1 ↔ ∃ row col, Covered s x y n row col ∧ pixelOf t.fb row col = true)

/-! ## Random, timers, keys -/

/-- R240: V[x] is the drawn byte and kk, for every byte the host may have put at the port, and in any case has no bit outside
kk; exactly one byte is drawn. R269, the rnd port: bytes the host puts there queue behind those it put before, and nothing
else changes. How the source stands in the state is the model's choice (log 3). -/
def Obligations.RandomByteAndMask : Prop :=
  ∀ (x : Reg) (kk : Byte), HasRow (.rnd x kk) 0xF000 0xC000 ∧
    ∀ s : State,
      Executes (.rnd x kk) s
        (fun t => (∀ b rest, s.rndIn = b :: rest → t.getV x = b &&& kk ∧ t.rndIn = rest) ∧
          (s.rndIn = [] → t.rndIn = []) ∧ t.getV x &&& ~~~kk = 0 ∧ t.rndDrawn = s.rndDrawn + 1)
        (fun e => e = .v x ∨ e = .rndIn ∨ e = .rndDrawn) ∧
      ∀ bytes : List Byte, ∃ t, hostCall (.supplyRandom bytes) s = .next t ∧ t.rndIn = s.rndIn ++ bytes ∧
        Unchanged s t (fun e => e = .rndIn)

/-- R241, R242, R243: V[x] <- DT, DT <- V[x], ST <- V[x], BEEP following ST at once. -/
def Obligations.TimerMoves : Prop :=
  ∀ x : Reg, HasRow (.ldVDt x) 0xF0FF 0xF007 ∧ HasRow (.ldDtV x) 0xF0FF 0xF015 ∧ HasRow (.ldStV x) 0xF0FF 0xF018 ∧
    ∀ s : State,
      Executes (.ldVDt x) s (fun t => t.getV x = s.dt) (fun e => e = .v x) ∧
      Executes (.ldDtV x) s (fun t => t.dt = s.getV x) (fun e => e = .dt) ∧
      Executes (.ldStV x) s (fun t => t.st = s.getV x ∧ (t.beeping = true ↔ s.getV x ≠ 0)) (fun e => e = .st)

/-- R244, R245: the key skips test the key numbered by the low nibble of V[x] (the spec's decision D9). -/
def Obligations.KeySkips : Prop :=
  ∀ x : Reg, HasRow (.skp x) 0xF0FF 0xE09E ∧ HasRow (.sknp x) 0xF0FF 0xE0A1 ∧
    ∀ s : State,
      Executes (.skp x) s
        (fun t => t.pc = if s.keys.getLsbD ((s.getV x).toNat % 16) = true then s.pc + 2 else s.pc) (fun e => e = .pc) ∧
      Executes (.sknp x) s
        (fun t => t.pc = if s.keys.getLsbD ((s.getV x).toNat % 16) = true then s.pc else s.pc + 2) (fun e => e = .pc)

/-- R246: Fx0A records the keys; not armed, or with no key down now that was up at the previous check, it arms and stalls;
otherwise V[x] is the least such key (the spec's decision D12), the wait ends and PC stays pc0 + 2. -/
def Obligations.KeyWaitTakesTheLeastNewKey : Prop :=
  ∀ x : Reg, HasRow (.ldVKey x) 0xF0FF 0xF00A ∧
    ∀ s : State,
      ((s.wait = false ∨ ∀ k : Reg, s.keys.getLsbD k.val = true → s.kprev.getLsbD k.val = true) →
        Executes (.ldVKey x) s (fun t => t.pc = s.pc - 2 ∧ t.wait = true ∧ t.kprev = s.keys)
          (fun e => e = .pc ∨ e = .wait ∨ e = .kprev)) ∧
      (∀ k : Reg, s.wait = true → s.keys.getLsbD k.val = true → s.kprev.getLsbD k.val = false →
        (∀ j : Reg, j < k → s.keys.getLsbD j.val = true → s.kprev.getLsbD j.val = true) →
        Executes (.ldVKey x) s (fun t => (t.getV x).toNat = k.val ∧ t.wait = false ∧ t.kprev = s.keys)
          (fun e => e = .v x ∨ e = .wait ∨ e = .kprev))

/-! ## Timers -/

/-- R296: a Tick, when it is the next event, decrements both timers, clamped at 0, sets VBL, and touches nothing else, halted
or not (that it is the next event stands in `due`: log 4). -/
def Obligations.TickDecrementsBothTimers : Prop :=
  ∀ (s : State) (due : List Due), s.due = .tick :: due →
    ∃ t, step s = .next t ∧ t.dt.toNat = s.dt.toNat - 1 ∧ t.st.toNat = s.st.toNat - 1 ∧ t.vbl = true ∧ t.due = due ∧
      Unchanged s t (fun e => e = .dt ∨ e = .st ∨ e = .vbl ∨ e = .due)

/-- R296 (CH8 §8): after any number of Ticks a timer has gone down by that number, and never below 0. -/
def Obligations.TimersRunDownAndStayAtZero : Prop :=
  ∀ (n : Nat) (s : State), (State.tick^[n] s).dt.toNat = s.dt.toNat - n ∧ (State.tick^[n] s).st.toNat = s.st.toNat - n

/-- R298, R42 (the spec's decision D28): BEEP is ST != 0 at all times; with ST = 1 it is true before a Tick and false after it. -/
def Obligations.BeepFollowsTheSoundTimer : Prop :=
  ∀ s : State, (s.beeping = true ↔ s.st ≠ 0) ∧ (s.st = 1 → s.beeping = true ∧ s.tick.beeping = false)

/-! ## Host interface -/

/-- R320, R40: the state after Reset. The values the spec marks as its own decision (D10, D11, D12, D16, D20) are log 2. -/
def Obligations.ResetState : Prop :=
  ∀ c : Config, (∀ k : Fin 80, (State.resetWith c).readMem (c.fontBase + k.val) = c.font[k]) ∧
    (∀ a, a < c.fontBase ∨ c.fontBase + 80 ≤ a → (State.resetWith c).readMem a = 0) ∧
    (State.resetWith c).pc = 0x0200 ∧ (State.resetWith c).sp = 0 ∧ (∀ r, (State.resetWith c).getV r = 0) ∧
    (State.resetWith c).i = 0 ∧ (∀ k : Fin 16, (State.resetWith c).stack[k] = 0) ∧ (State.resetWith c).dt = 0 ∧
    (State.resetWith c).st = 0 ∧ (∀ row col, pixelOf (State.resetWith c).fb row col = false) ∧
    (State.resetWith c).dirty = false ∧ (State.resetWith c).keys = 0 ∧ (State.resetWith c).kprev = 0 ∧
    (State.resetWith c).wait = false ∧ (State.resetWith c).vbl = false ∧ (State.resetWith c).halt = false ∧
    (State.resetWith c).err = none ∧ (State.resetWith c).accT = 0 ∧ (State.resetWith c).accI = 0 ∧
    (State.resetWith c).cfg = c

/-- R261: construction succeeds exactly with RATE > 0 and the font below 0x200, and then gives the machine after Reset. -/
def Obligations.ConstructionRejectsInvalidConfigurations : Prop :=
  ∀ c : Config, (0 < c.rate ∧ c.fontBase + 80 ≤ 0x200 → construct c = .ok (State.resetWith c)) ∧
    (¬(0 < c.rate ∧ c.fontBase + 80 ≤ 0x200) → ∃ e, construct c = .error e)

/-- R260: an image of at most 3584 bytes is copied to 0x200 upward and nothing else changes; a longer one is a LoadError,
and the transaction then leaves the state as it was. -/
def Obligations.LoadCopiesTheImageOrFails : Prop :=
  ∀ (s : State) (rom : List Byte), Memory.wf s.cfg s.mem →
    (rom.length ≤ 3584 → ∃ t, s.load rom = .ok t ∧ hostCall (.load rom) s = .next t ∧
      (∀ (k : Nat) (h : k < rom.length), t.readMem (0x200 + k) = rom[k]) ∧
      Unchanged s t (fun e => e.memIn 0x200 rom.length)) ∧
    (3584 < rom.length → s.load rom = .error .tooLong ∧ hostCall (.load rom) s = .next s)

/-- R262, R264: SetKeys writes KEYS only; ReadFramebuffer returns FB and DIRTY and clears DIRTY only. -/
def Obligations.SetKeysAndReadFramebuffer : Prop :=
  ∀ (s : State) (v : BitVec 16),
    (∃ t, hostCall (.setKeys v) s = .next t ∧ t.keys = v ∧ Unchanged s t (fun e => e = .keys)) ∧
    (∃ t, hostCall .readFramebuffer s = .next t ∧ s.readFramebuffer = ((s.fb, s.dirty), t) ∧ t.dirty = false ∧
      Unchanged s t (fun e => e = .dirty))

/-- R287 (the spec's decision D16), R300: an Advance begins by clearing ERR on a machine that is not halted, and leaves it on a halted one; besides ERR it
writes the accumulators and makes events due, nothing else. -/
def Obligations.AdvanceClearsErrorUnlessHalted : Prop :=
  ∀ (s : State) (e : Rat) (order : List Due), 0 ≤ e →
    ∃ t, hostCall (.advance e order) s = .next t ∧ t.err = (if s.halt then s.err else none) ∧
      Unchanged s t (fun x => x = .err ∨ x = .accT ∨ x = .accI ∨ x = .due)

/-- R300: over any sequence of Advances with total elapsed time E, from empty accumulators, exactly floor(60 * E) Ticks and
floor(RATE * E) Steps become due, however E was cut: no tick is lost or counted twice, whatever the orders asked for. -/
def Obligations.NoTickOrStepIsLostOrCountedTwice : Prop :=
  ∀ (s : State) (calls : List (Rat × List Due)), 0 < s.cfg.rate → s.accT = 0 → s.accI = 0 → s.due = [] →
    (∀ c ∈ calls, 0 ≤ c.1) →
    (((calls.foldl (fun u c => u.advance c.1 c.2) s).due.count .tick : Int) = ⌊60 * (calls.map Prod.fst).sum⌋) ∧
    (((calls.foldl (fun u c => u.advance c.1 c.2) s).due.count .step : Int) = ⌊s.cfg.rate * (calls.map Prod.fst).sum⌋)

/-- R300, SCHED: every interleaving of the due Ticks and Steps is the answer to some order, namely to itself, and the answer
to any order holds exactly those events (log 11). -/
def Obligations.EveryInterleavingCanBeScheduled : Prop :=
  (∀ events : List Due, interleave (events.count .tick) (events.count .step) events = events) ∧
  (∀ (nT nI : Nat) (order : List Due), (interleave nT nI order).Perm (List.replicate nT .tick ++ List.replicate nI .step))

/-- R321: the host's Reset, at any time, gives the state after creation with the same configuration; what the environment
still has to give (random bytes, events) stays (log 15). -/
def Obligations.HostResetIsCreation : Prop :=
  ∀ s : State, ∃ t, hostCall .reset s = .next t ∧
    t.rndIn = s.rndIn ∧ t.rndDrawn = s.rndDrawn ∧ t.due = s.due ∧ t.inbox = s.inbox ∧
    Unchanged (State.resetWith s.cfg) t (fun e => e = .rndIn ∨ e = .rndDrawn ∨ e = .due ∨ e = .inbox)
end

