-- ==== Sys2Proof/Laws/Decode.lean ====
section
/-! SUPPORT. The fields of a packed word, and a word as the packing of its fields: with these no later proof looks at bits. -/

namespace Sys2Proof

theorem middle_bits (f a : BitVec 4) (b : BitVec 8) : (f ++ a ++ b).extractLsb' 8 4 = a := by
  ext i hi
  simp
  grind

theorem third_bits (f a b c : BitVec 4) : (f ++ a ++ b ++ c).extractLsb' 4 4 = b := by
  ext i hi
  simp
  grind

theorem second_bits (f a b c : BitVec 4) : (f ++ a ++ b ++ c).extractLsb' 8 4 = a := by
  ext i hi
  simp
  grind

@[simp] theorem toFin_ofFin4 (x : Reg) : (BitVec.ofFin (w := 4) x).toFin = x := rfl

theorem ofFin_toFin4 (b : BitVec 4) : BitVec.ofFin (w := 4) b.toFin = b := rfl

@[simp] theorem family_packNNN (f : BitVec 4) (nnn : BitVec 12) : family (packNNN f nnn) = f := by
  ext i hi
  simp [family, packNNN]
  grind

@[simp] theorem nnnField_packNNN (f : BitVec 4) (nnn : BitVec 12) : nnnField (packNNN f nnn) = nnn := by
  ext i hi
  simp [nnnField, packNNN]
  grind

theorem xField_packNNN (f : BitVec 4) (nnn : BitVec 12) : (xField (packNNN f nnn)).val = nnn.toNat / 256 := by
  have h : (packNNN f nnn).extractLsb' 8 4 = nnn.extractLsb' 8 4 := by
    ext i hi
    simp [packNNN]
    grind
  have : nnn.toNat < 2 ^ 12 := nnn.isLt
  simp only [xField, h, BitVec.val_toFin, BitVec.extractLsb'_toNat, Nat.shiftRight_eq_div_pow]
  omega

@[simp] theorem family_packXKK (f : BitVec 4) (x : Reg) (kk : Byte) : family (packXKK f x kk) = f := by
  ext i hi
  simp [family, packXKK]
  grind

@[simp] theorem xField_packXKK (f : BitVec 4) (x : Reg) (kk : Byte) : xField (packXKK f x kk) = x := by
  show ((packXKK f x kk).extractLsb' 8 4).toFin = x
  rw [show (packXKK f x kk).extractLsb' 8 4 = BitVec.ofFin (w := 4) x from middle_bits ..]

@[simp] theorem kkField_packXKK (f : BitVec 4) (x : Reg) (kk : Byte) : kkField (packXKK f x kk) = kk := by
  ext i hi
  simp [kkField, packXKK]
  grind

@[simp] theorem family_packXYN (f : BitVec 4) (x y : Reg) (n : BitVec 4) : family (packXYN f x y n) = f := by
  ext i hi
  simp [family, packXYN]
  grind

@[simp] theorem xField_packXYN (f : BitVec 4) (x y : Reg) (n : BitVec 4) : xField (packXYN f x y n) = x := by
  show ((packXYN f x y n).extractLsb' 8 4).toFin = x
  rw [show (packXYN f x y n).extractLsb' 8 4 = BitVec.ofFin (w := 4) x from second_bits ..]

@[simp] theorem yField_packXYN (f : BitVec 4) (x y : Reg) (n : BitVec 4) : yField (packXYN f x y n) = y := by
  show ((packXYN f x y n).extractLsb' 4 4).toFin = y
  rw [show (packXYN f x y n).extractLsb' 4 4 = BitVec.ofFin (w := 4) y from third_bits ..]

@[simp] theorem nField_packXYN (f : BitVec 4) (x y : Reg) (n : BitVec 4) : nField (packXYN f x y n) = n := by
  ext i hi
  simp [nField, packXYN]
  grind

/-- A word is the packing of its fields, in each of the three formats. -/
theorem packNNN_fields (w : Word) : packNNN (family w) (nnnField w) = w := by
  ext i hi
  simp [packNNN, family, nnnField]
  grind

theorem packXKK_fields (w : Word) : packXKK (family w) (xField w) (kkField w) = w := by
  unfold packXKK
  rw [show BitVec.ofFin (w := 4) (xField w) = w.extractLsb' 8 4 from rfl]
  ext i hi
  simp [family, kkField]
  grind

theorem packXYN_fields (w : Word) : packXYN (family w) (xField w) (yField w) (nField w) = w := by
  unfold packXYN
  rw [show BitVec.ofFin (w := 4) (xField w) = w.extractLsb' 8 4 from rfl,
    show BitVec.ofFin (w := 4) (yField w) = w.extractLsb' 4 4 from rfl]
  ext i hi
  simp [family, nField]
  grind

theorem packNNN_and (f m : BitVec 4) (a b : BitVec 12) : packNNN f a &&& packNNN m b = packNNN (f &&& m) (a &&& b) := by
  unfold packNNN
  rw [← BitVec.and_append]

theorem packXKK_and (f m : BitVec 4) (x p : Reg) (a b : Byte) :
    packXKK f x a &&& packXKK m p b = (f &&& m) ++ (BitVec.ofFin (w := 4) x &&& BitVec.ofFin (w := 4) p) ++ (a &&& b) := by
  unfold packXKK
  rw [← BitVec.and_append, ← BitVec.and_append]

theorem packXYN_and (f m : BitVec 4) (x y p q : Reg) (a b : BitVec 4) :
    packXYN f x y a &&& packXYN m p q b =
      (f &&& m) ++ (BitVec.ofFin (w := 4) x &&& BitVec.ofFin (w := 4) p) ++
        (BitVec.ofFin (w := 4) y &&& BitVec.ofFin (w := 4) q) ++ (a &&& b) := by
  unfold packXYN
  rw [← BitVec.and_append, ← BitVec.and_append, ← BitVec.and_append]

@[simp] theorem wordOfBytes_halves (w : Word) : wordOfBytes (highByte w) (lowByte w) = w := by
  ext i hi
  simp [wordOfBytes, highByte, lowByte]
  grind

@[simp] theorem highByte_wordOfBytes (hi lo : Byte) : highByte (wordOfBytes hi lo) = hi := by
  ext i h
  simp [wordOfBytes, highByte]
  grind

@[simp] theorem lowByte_wordOfBytes (hi lo : Byte) : lowByte (wordOfBytes hi lo) = lo := by
  ext i h
  simp [wordOfBytes, lowByte]
  grind

end Sys2Proof
end

