-- ==== Sys2Proof/Laws/Memory.lean ====
section
/-! SUPPORT. The memory: what a read gives after a store, and that every store keeps the canonical form. -/

namespace Sys2Proof.Machine

@[simp] theorem read_nil (c : Config) (a : Nat) : Memory.read c [] a = resetByte c a := rfl

theorem read_cons (c : Config) (cell : Host.Cell) (m : Memory) (a : Nat) :
    Memory.read c (cell :: m) a = if a = cell.1 then cell.2 else Memory.read c m a := rfl

/-- An address below every listed one reads as after Reset. -/
theorem read_below (c : Config) (m : Memory) (a : Nat) (h : ∀ cell ∈ m, a < cell.1) : Memory.read c m a = resetByte c a := by
  induction m with
  | nil => rfl
  | cons cell m ih =>
    have := h cell (by simp)
    rw [read_cons, if_neg (by omega)]
    exact ih fun q hq => h q (by simp [hq])

theorem read_memCons_self (c : Config) (m : Memory) (a : Nat) (b : Byte) (h : ∀ cell ∈ m, a < cell.1) :
    Memory.read c (Memory.cons c a b m) a = b := by
  unfold Memory.cons
  split
  · rw [read_below c m a h]; simp [*]
  · simp [read_cons]

theorem read_memCons_other (c : Config) (m : Memory) (a a' : Nat) (b : Byte) (h : a' ≠ a) :
    Memory.read c (Memory.cons c a b m) a' = Memory.read c m a' := by
  unfold Memory.cons
  split
  · rfl
  · simp [read_cons, h]

/-- A store leaves every other address alone, in every list. -/
theorem read_write_other (c : Config) (m : Memory) (a a' : Nat) (b : Byte) (h : a' ≠ a) :
    Memory.read c (Memory.write c m a b) a' = Memory.read c m a' := by
  induction m with
  | nil => exact read_memCons_other c [] a a' b h
  | cons cell m ih =>
    unfold Memory.write
    split
    · exact read_memCons_other c _ a a' b h
    · split
      · rename_i heq
        rw [read_memCons_other c m a a' b h, read_cons, if_neg (by omega)]
      · simp [read_cons, ih]

/-- A read gives what the store put there. -/
theorem read_write_self (c : Config) (m : Memory) (a : Nat) (b : Byte) (h : Memory.wf c m) :
    Memory.read c (Memory.write c m a b) a = b := by
  induction m with
  | nil => exact read_memCons_self c [] a b (by simp)
  | cons cell m ih =>
    obtain ⟨hp, hc⟩ := h
    rw [List.pairwise_cons] at hp
    unfold Memory.write
    split
    · refine read_memCons_self c _ a b fun q hq => ?_
      rcases List.mem_cons.mp hq with rfl | hq
      · assumption
      · have := hp.1 q hq; omega
    · split
      · refine read_memCons_self c m a b fun q hq => ?_
        have := hp.1 q hq; omega
      · rename_i hne
        rw [read_cons, if_neg hne]
        exact ih ⟨hp.2, fun q hq => hc q (by simp [hq])⟩

/-- Every address of a list after a store is the stored one or was listed before. -/
theorem mem_write (c : Config) (m : Memory) (a : Nat) (b : Byte) :
    ∀ q ∈ Memory.write c m a b, (q.1 = a ∧ q.2 ≠ resetByte c a) ∨ q ∈ m := by
  have hcons : ∀ m' : Memory, ∀ q ∈ Memory.cons c a b m', (q.1 = a ∧ q.2 ≠ resetByte c a) ∨ q ∈ m' := by
    intro m' q hq
    unfold Memory.cons at hq
    split at hq
    · exact .inr hq
    · rcases List.mem_cons.mp hq with rfl | hq
      · exact .inl ⟨rfl, by assumption⟩
      · exact .inr hq
  induction m with
  | nil => exact hcons []
  | cons cell m ih =>
    intro q hq
    unfold Memory.write at hq
    split at hq
    · exact hcons _ q hq
    · split at hq
      · exact (hcons _ q hq).imp_right (List.mem_cons_of_mem _)
      · rcases List.mem_cons.mp hq with rfl | hq
        · exact .inr (by simp)
        · exact (ih q hq).imp_right (List.mem_cons_of_mem _)

/-- A store to an address of MEM keeps the canonical form. -/
theorem write_wf (c : Config) (m : Memory) (a : Nat) (b : Byte) (h : Memory.wf c m) (ha : a < memSize) :
    Memory.wf c (Memory.write c m a b) := by
  refine ⟨?_, fun q hq => ?_⟩
  · have hcons : ∀ m' : Memory, m'.Pairwise (fun p q => p.1 < q.1) → (∀ q ∈ m', a < q.1) →
        (Memory.cons c a b m').Pairwise (fun p q => p.1 < q.1) := by
      intro m' hm' hlt
      unfold Memory.cons
      split
      · exact hm'
      · exact List.pairwise_cons.mpr ⟨hlt, hm'⟩
    obtain ⟨hp, hc⟩ := h
    induction m with
    | nil => exact hcons [] List.Pairwise.nil (by simp)
    | cons cell m ih =>
      have hp' := List.pairwise_cons.mp hp
      unfold Memory.write
      split
      · refine hcons _ hp fun q hq => ?_
        rcases List.mem_cons.mp hq with rfl | hq
        · assumption
        · have := hp'.1 q hq; omega
      · split
        · refine hcons _ hp'.2 fun q hq => ?_
          have := hp'.1 q hq; omega
        · refine List.pairwise_cons.mpr ⟨fun q hq => ?_, ih hp'.2 fun q hq => hc q (by simp [hq])⟩
          rcases mem_write c m a b q hq with ⟨h1, _⟩ | hq
          · omega
          · exact hp'.1 q hq
  · rcases mem_write c m a b q hq with ⟨h1, h2⟩ | hq
    · exact ⟨h1 ▸ ha, h1 ▸ h2⟩
    · exact h.2 q hq

/-- Storing bytes upward from `a` keeps the canonical form when they all lie in MEM. -/
theorem writeBytes_wf (c : Config) (bytes : List Byte) (m : Memory) (a : Nat) (h : Memory.wf c m)
    (ha : a + bytes.length ≤ memSize) : Memory.wf c (Memory.writeBytes c m a bytes) := by
  induction bytes generalizing m a with
  | nil => exact h
  | cons b bs ih =>
    simp only [List.length_cons] at ha
    exact ih _ _ (write_wf c m a b h (by omega)) (by omega)

/-- Addresses outside the stored block read as before, in every list. -/
theorem read_writeBytes_outside (c : Config) (bytes : List Byte) (m : Memory) (a a' : Nat)
    (h : ¬(a ≤ a' ∧ a' < a + bytes.length)) : Memory.read c (Memory.writeBytes c m a bytes) a' = Memory.read c m a' := by
  induction bytes generalizing m a with
  | nil => rfl
  | cons b bs ih =>
    simp only [List.length_cons] at h
    rw [Memory.writeBytes, ih _ _ (by omega), read_write_other c m a a' b (by omega)]

/-- Byte `k` of the stored block reads back at `a + k`. -/
theorem read_writeBytes_inside (c : Config) (bytes : List Byte) (m : Memory) (a k : Nat) (h : Memory.wf c m)
    (ha : a + bytes.length ≤ memSize) (hk : k < bytes.length) :
    Memory.read c (Memory.writeBytes c m a bytes) (a + k) = bytes[k] := by
  induction bytes generalizing m a k with
  | nil => simp at hk
  | cons b bs ih =>
    simp only [List.length_cons] at ha hk
    have hw := write_wf c m a b h (by omega)
    cases k with
    | zero =>
      rw [Memory.writeBytes, read_writeBytes_outside c bs _ _ _ (by omega)]
      exact read_write_self c m a b h
    | succ k =>
      rw [Memory.writeBytes, show a + (k + 1) = a + 1 + k by omega, ih _ _ _ hw (by omega) (by omega)]
      rfl

end Sys2Proof.Machine
end

