-- ==== Sys2Proof/Laws/State.lean ====
section
/-! SUPPORT. Each field after each update, by rfl, so that no later proof unfolds a record update. -/

namespace Sys2Proof.Machine

variable (s : State)

/-! ### setV -/

@[simp] theorem setV_cfg (r : Reg) (b : Byte) : (s.setV r b).cfg = s.cfg := rfl
@[simp] theorem setV_mem (r : Reg) (b : Byte) : (s.setV r b).mem = s.mem := rfl
@[simp] theorem setV_v (r : Reg) (b : Byte) : (s.setV r b).v = s.v.set r b := rfl
@[simp] theorem setV_i (r : Reg) (b : Byte) : (s.setV r b).i = s.i := rfl
@[simp] theorem setV_pc (r : Reg) (b : Byte) : (s.setV r b).pc = s.pc := rfl
@[simp] theorem setV_stack (r : Reg) (b : Byte) : (s.setV r b).stack = s.stack := rfl
@[simp] theorem setV_sp (r : Reg) (b : Byte) : (s.setV r b).sp = s.sp := rfl
@[simp] theorem setV_dt (r : Reg) (b : Byte) : (s.setV r b).dt = s.dt := rfl
@[simp] theorem setV_st (r : Reg) (b : Byte) : (s.setV r b).st = s.st := rfl
@[simp] theorem setV_fb (r : Reg) (b : Byte) : (s.setV r b).fb = s.fb := rfl
@[simp] theorem setV_keys (r : Reg) (b : Byte) : (s.setV r b).keys = s.keys := rfl
@[simp] theorem setV_dirty (r : Reg) (b : Byte) : (s.setV r b).dirty = s.dirty := rfl
@[simp] theorem setV_wait (r : Reg) (b : Byte) : (s.setV r b).wait = s.wait := rfl
@[simp] theorem setV_kprev (r : Reg) (b : Byte) : (s.setV r b).kprev = s.kprev := rfl
@[simp] theorem setV_vbl (r : Reg) (b : Byte) : (s.setV r b).vbl = s.vbl := rfl
@[simp] theorem setV_halt (r : Reg) (b : Byte) : (s.setV r b).halt = s.halt := rfl
@[simp] theorem setV_err (r : Reg) (b : Byte) : (s.setV r b).err = s.err := rfl
@[simp] theorem setV_accT (r : Reg) (b : Byte) : (s.setV r b).accT = s.accT := rfl
@[simp] theorem setV_accI (r : Reg) (b : Byte) : (s.setV r b).accI = s.accI := rfl
@[simp] theorem setV_rndIn (r : Reg) (b : Byte) : (s.setV r b).rndIn = s.rndIn := rfl
@[simp] theorem setV_rndDrawn (r : Reg) (b : Byte) : (s.setV r b).rndDrawn = s.rndDrawn := rfl
@[simp] theorem setV_due (r : Reg) (b : Byte) : (s.setV r b).due = s.due := rfl
@[simp] theorem setV_inbox (r : Reg) (b : Byte) : (s.setV r b).inbox = s.inbox := rfl

/-! ### setI -/

@[simp] theorem setI_cfg (n : Nat) : (s.setI n).cfg = s.cfg := rfl
@[simp] theorem setI_mem (n : Nat) : (s.setI n).mem = s.mem := rfl
@[simp] theorem setI_v (n : Nat) : (s.setI n).v = s.v := rfl
@[simp] theorem setI_i (n : Nat) : (s.setI n).i = wrapI s.cfg n := rfl
@[simp] theorem setI_pc (n : Nat) : (s.setI n).pc = s.pc := rfl
@[simp] theorem setI_stack (n : Nat) : (s.setI n).stack = s.stack := rfl
@[simp] theorem setI_sp (n : Nat) : (s.setI n).sp = s.sp := rfl
@[simp] theorem setI_dt (n : Nat) : (s.setI n).dt = s.dt := rfl
@[simp] theorem setI_st (n : Nat) : (s.setI n).st = s.st := rfl
@[simp] theorem setI_fb (n : Nat) : (s.setI n).fb = s.fb := rfl
@[simp] theorem setI_keys (n : Nat) : (s.setI n).keys = s.keys := rfl
@[simp] theorem setI_dirty (n : Nat) : (s.setI n).dirty = s.dirty := rfl
@[simp] theorem setI_wait (n : Nat) : (s.setI n).wait = s.wait := rfl
@[simp] theorem setI_kprev (n : Nat) : (s.setI n).kprev = s.kprev := rfl
@[simp] theorem setI_vbl (n : Nat) : (s.setI n).vbl = s.vbl := rfl
@[simp] theorem setI_halt (n : Nat) : (s.setI n).halt = s.halt := rfl
@[simp] theorem setI_err (n : Nat) : (s.setI n).err = s.err := rfl
@[simp] theorem setI_accT (n : Nat) : (s.setI n).accT = s.accT := rfl
@[simp] theorem setI_accI (n : Nat) : (s.setI n).accI = s.accI := rfl
@[simp] theorem setI_rndIn (n : Nat) : (s.setI n).rndIn = s.rndIn := rfl
@[simp] theorem setI_rndDrawn (n : Nat) : (s.setI n).rndDrawn = s.rndDrawn := rfl
@[simp] theorem setI_due (n : Nat) : (s.setI n).due = s.due := rfl
@[simp] theorem setI_inbox (n : Nat) : (s.setI n).inbox = s.inbox := rfl

/-! ### setPc -/

@[simp] theorem setPc_cfg (w : Word) : (s.setPc w).cfg = s.cfg := rfl
@[simp] theorem setPc_mem (w : Word) : (s.setPc w).mem = s.mem := rfl
@[simp] theorem setPc_v (w : Word) : (s.setPc w).v = s.v := rfl
@[simp] theorem setPc_i (w : Word) : (s.setPc w).i = s.i := rfl
@[simp] theorem setPc_pc (w : Word) : (s.setPc w).pc = w := rfl
@[simp] theorem setPc_stack (w : Word) : (s.setPc w).stack = s.stack := rfl
@[simp] theorem setPc_sp (w : Word) : (s.setPc w).sp = s.sp := rfl
@[simp] theorem setPc_dt (w : Word) : (s.setPc w).dt = s.dt := rfl
@[simp] theorem setPc_st (w : Word) : (s.setPc w).st = s.st := rfl
@[simp] theorem setPc_fb (w : Word) : (s.setPc w).fb = s.fb := rfl
@[simp] theorem setPc_keys (w : Word) : (s.setPc w).keys = s.keys := rfl
@[simp] theorem setPc_dirty (w : Word) : (s.setPc w).dirty = s.dirty := rfl
@[simp] theorem setPc_wait (w : Word) : (s.setPc w).wait = s.wait := rfl
@[simp] theorem setPc_kprev (w : Word) : (s.setPc w).kprev = s.kprev := rfl
@[simp] theorem setPc_vbl (w : Word) : (s.setPc w).vbl = s.vbl := rfl
@[simp] theorem setPc_halt (w : Word) : (s.setPc w).halt = s.halt := rfl
@[simp] theorem setPc_err (w : Word) : (s.setPc w).err = s.err := rfl
@[simp] theorem setPc_accT (w : Word) : (s.setPc w).accT = s.accT := rfl
@[simp] theorem setPc_accI (w : Word) : (s.setPc w).accI = s.accI := rfl
@[simp] theorem setPc_rndIn (w : Word) : (s.setPc w).rndIn = s.rndIn := rfl
@[simp] theorem setPc_rndDrawn (w : Word) : (s.setPc w).rndDrawn = s.rndDrawn := rfl
@[simp] theorem setPc_due (w : Word) : (s.setPc w).due = s.due := rfl
@[simp] theorem setPc_inbox (w : Word) : (s.setPc w).inbox = s.inbox := rfl

/-! ### stall -/

@[simp] theorem stall_cfg : (s.stall).cfg = s.cfg := rfl
@[simp] theorem stall_mem : (s.stall).mem = s.mem := rfl
@[simp] theorem stall_v : (s.stall).v = s.v := rfl
@[simp] theorem stall_i : (s.stall).i = s.i := rfl
@[simp] theorem stall_pc : (s.stall).pc = s.pc0 := rfl
@[simp] theorem stall_stack : (s.stall).stack = s.stack := rfl
@[simp] theorem stall_sp : (s.stall).sp = s.sp := rfl
@[simp] theorem stall_dt : (s.stall).dt = s.dt := rfl
@[simp] theorem stall_st : (s.stall).st = s.st := rfl
@[simp] theorem stall_fb : (s.stall).fb = s.fb := rfl
@[simp] theorem stall_keys : (s.stall).keys = s.keys := rfl
@[simp] theorem stall_dirty : (s.stall).dirty = s.dirty := rfl
@[simp] theorem stall_wait : (s.stall).wait = s.wait := rfl
@[simp] theorem stall_kprev : (s.stall).kprev = s.kprev := rfl
@[simp] theorem stall_vbl : (s.stall).vbl = s.vbl := rfl
@[simp] theorem stall_halt : (s.stall).halt = s.halt := rfl
@[simp] theorem stall_err : (s.stall).err = s.err := rfl
@[simp] theorem stall_accT : (s.stall).accT = s.accT := rfl
@[simp] theorem stall_accI : (s.stall).accI = s.accI := rfl
@[simp] theorem stall_rndIn : (s.stall).rndIn = s.rndIn := rfl
@[simp] theorem stall_rndDrawn : (s.stall).rndDrawn = s.rndDrawn := rfl
@[simp] theorem stall_due : (s.stall).due = s.due := rfl
@[simp] theorem stall_inbox : (s.stall).inbox = s.inbox := rfl

/-! ### writeMem -/

@[simp] theorem writeMem_cfg (a : Nat) (bs : List Byte) : (s.writeMem a bs).cfg = s.cfg := rfl
@[simp] theorem writeMem_mem (a : Nat) (bs : List Byte) : (s.writeMem a bs).mem = Memory.writeBytes s.cfg s.mem a bs := rfl
@[simp] theorem writeMem_v (a : Nat) (bs : List Byte) : (s.writeMem a bs).v = s.v := rfl
@[simp] theorem writeMem_i (a : Nat) (bs : List Byte) : (s.writeMem a bs).i = s.i := rfl
@[simp] theorem writeMem_pc (a : Nat) (bs : List Byte) : (s.writeMem a bs).pc = s.pc := rfl
@[simp] theorem writeMem_stack (a : Nat) (bs : List Byte) : (s.writeMem a bs).stack = s.stack := rfl
@[simp] theorem writeMem_sp (a : Nat) (bs : List Byte) : (s.writeMem a bs).sp = s.sp := rfl
@[simp] theorem writeMem_dt (a : Nat) (bs : List Byte) : (s.writeMem a bs).dt = s.dt := rfl
@[simp] theorem writeMem_st (a : Nat) (bs : List Byte) : (s.writeMem a bs).st = s.st := rfl
@[simp] theorem writeMem_fb (a : Nat) (bs : List Byte) : (s.writeMem a bs).fb = s.fb := rfl
@[simp] theorem writeMem_keys (a : Nat) (bs : List Byte) : (s.writeMem a bs).keys = s.keys := rfl
@[simp] theorem writeMem_dirty (a : Nat) (bs : List Byte) : (s.writeMem a bs).dirty = s.dirty := rfl
@[simp] theorem writeMem_wait (a : Nat) (bs : List Byte) : (s.writeMem a bs).wait = s.wait := rfl
@[simp] theorem writeMem_kprev (a : Nat) (bs : List Byte) : (s.writeMem a bs).kprev = s.kprev := rfl
@[simp] theorem writeMem_vbl (a : Nat) (bs : List Byte) : (s.writeMem a bs).vbl = s.vbl := rfl
@[simp] theorem writeMem_halt (a : Nat) (bs : List Byte) : (s.writeMem a bs).halt = s.halt := rfl
@[simp] theorem writeMem_err (a : Nat) (bs : List Byte) : (s.writeMem a bs).err = s.err := rfl
@[simp] theorem writeMem_accT (a : Nat) (bs : List Byte) : (s.writeMem a bs).accT = s.accT := rfl
@[simp] theorem writeMem_accI (a : Nat) (bs : List Byte) : (s.writeMem a bs).accI = s.accI := rfl
@[simp] theorem writeMem_rndIn (a : Nat) (bs : List Byte) : (s.writeMem a bs).rndIn = s.rndIn := rfl
@[simp] theorem writeMem_rndDrawn (a : Nat) (bs : List Byte) : (s.writeMem a bs).rndDrawn = s.rndDrawn := rfl
@[simp] theorem writeMem_due (a : Nat) (bs : List Byte) : (s.writeMem a bs).due = s.due := rfl
@[simp] theorem writeMem_inbox (a : Nat) (bs : List Byte) : (s.writeMem a bs).inbox = s.inbox := rfl

/-! ### loadRegsFrom -/

@[simp] theorem loadRegsFrom_cfg (a : Nat) (x : Reg) : (s.loadRegsFrom a x).cfg = s.cfg := rfl
@[simp] theorem loadRegsFrom_mem (a : Nat) (x : Reg) : (s.loadRegsFrom a x).mem = s.mem := rfl
@[simp] theorem loadRegsFrom_v (a : Nat) (x : Reg) : (s.loadRegsFrom a x).v = loadInto s a (regsUpTo x) s.v := rfl
@[simp] theorem loadRegsFrom_i (a : Nat) (x : Reg) : (s.loadRegsFrom a x).i = s.i := rfl
@[simp] theorem loadRegsFrom_pc (a : Nat) (x : Reg) : (s.loadRegsFrom a x).pc = s.pc := rfl
@[simp] theorem loadRegsFrom_stack (a : Nat) (x : Reg) : (s.loadRegsFrom a x).stack = s.stack := rfl
@[simp] theorem loadRegsFrom_sp (a : Nat) (x : Reg) : (s.loadRegsFrom a x).sp = s.sp := rfl
@[simp] theorem loadRegsFrom_dt (a : Nat) (x : Reg) : (s.loadRegsFrom a x).dt = s.dt := rfl
@[simp] theorem loadRegsFrom_st (a : Nat) (x : Reg) : (s.loadRegsFrom a x).st = s.st := rfl
@[simp] theorem loadRegsFrom_fb (a : Nat) (x : Reg) : (s.loadRegsFrom a x).fb = s.fb := rfl
@[simp] theorem loadRegsFrom_keys (a : Nat) (x : Reg) : (s.loadRegsFrom a x).keys = s.keys := rfl
@[simp] theorem loadRegsFrom_dirty (a : Nat) (x : Reg) : (s.loadRegsFrom a x).dirty = s.dirty := rfl
@[simp] theorem loadRegsFrom_wait (a : Nat) (x : Reg) : (s.loadRegsFrom a x).wait = s.wait := rfl
@[simp] theorem loadRegsFrom_kprev (a : Nat) (x : Reg) : (s.loadRegsFrom a x).kprev = s.kprev := rfl
@[simp] theorem loadRegsFrom_vbl (a : Nat) (x : Reg) : (s.loadRegsFrom a x).vbl = s.vbl := rfl
@[simp] theorem loadRegsFrom_halt (a : Nat) (x : Reg) : (s.loadRegsFrom a x).halt = s.halt := rfl
@[simp] theorem loadRegsFrom_err (a : Nat) (x : Reg) : (s.loadRegsFrom a x).err = s.err := rfl
@[simp] theorem loadRegsFrom_accT (a : Nat) (x : Reg) : (s.loadRegsFrom a x).accT = s.accT := rfl
@[simp] theorem loadRegsFrom_accI (a : Nat) (x : Reg) : (s.loadRegsFrom a x).accI = s.accI := rfl
@[simp] theorem loadRegsFrom_rndIn (a : Nat) (x : Reg) : (s.loadRegsFrom a x).rndIn = s.rndIn := rfl
@[simp] theorem loadRegsFrom_rndDrawn (a : Nat) (x : Reg) : (s.loadRegsFrom a x).rndDrawn = s.rndDrawn := rfl
@[simp] theorem loadRegsFrom_due (a : Nat) (x : Reg) : (s.loadRegsFrom a x).due = s.due := rfl
@[simp] theorem loadRegsFrom_inbox (a : Nat) (x : Reg) : (s.loadRegsFrom a x).inbox = s.inbox := rfl

/-! ### push -/

@[simp] theorem push_cfg (w : Word) (h : s.sp.val < 16) : (s.push w h).cfg = s.cfg := rfl
@[simp] theorem push_mem (w : Word) (h : s.sp.val < 16) : (s.push w h).mem = s.mem := rfl
@[simp] theorem push_v (w : Word) (h : s.sp.val < 16) : (s.push w h).v = s.v := rfl
@[simp] theorem push_i (w : Word) (h : s.sp.val < 16) : (s.push w h).i = s.i := rfl
@[simp] theorem push_pc (w : Word) (h : s.sp.val < 16) : (s.push w h).pc = s.pc := rfl
@[simp] theorem push_stack (w : Word) (h : s.sp.val < 16) : (s.push w h).stack = s.stack.set s.sp.val w := rfl
@[simp] theorem push_sp (w : Word) (h : s.sp.val < 16) : (s.push w h).sp = ⟨s.sp.val + 1, by omega⟩ := rfl
@[simp] theorem push_dt (w : Word) (h : s.sp.val < 16) : (s.push w h).dt = s.dt := rfl
@[simp] theorem push_st (w : Word) (h : s.sp.val < 16) : (s.push w h).st = s.st := rfl
@[simp] theorem push_fb (w : Word) (h : s.sp.val < 16) : (s.push w h).fb = s.fb := rfl
@[simp] theorem push_keys (w : Word) (h : s.sp.val < 16) : (s.push w h).keys = s.keys := rfl
@[simp] theorem push_dirty (w : Word) (h : s.sp.val < 16) : (s.push w h).dirty = s.dirty := rfl
@[simp] theorem push_wait (w : Word) (h : s.sp.val < 16) : (s.push w h).wait = s.wait := rfl
@[simp] theorem push_kprev (w : Word) (h : s.sp.val < 16) : (s.push w h).kprev = s.kprev := rfl
@[simp] theorem push_vbl (w : Word) (h : s.sp.val < 16) : (s.push w h).vbl = s.vbl := rfl
@[simp] theorem push_halt (w : Word) (h : s.sp.val < 16) : (s.push w h).halt = s.halt := rfl
@[simp] theorem push_err (w : Word) (h : s.sp.val < 16) : (s.push w h).err = s.err := rfl
@[simp] theorem push_accT (w : Word) (h : s.sp.val < 16) : (s.push w h).accT = s.accT := rfl
@[simp] theorem push_accI (w : Word) (h : s.sp.val < 16) : (s.push w h).accI = s.accI := rfl
@[simp] theorem push_rndIn (w : Word) (h : s.sp.val < 16) : (s.push w h).rndIn = s.rndIn := rfl
@[simp] theorem push_rndDrawn (w : Word) (h : s.sp.val < 16) : (s.push w h).rndDrawn = s.rndDrawn := rfl
@[simp] theorem push_due (w : Word) (h : s.sp.val < 16) : (s.push w h).due = s.due := rfl
@[simp] theorem push_inbox (w : Word) (h : s.sp.val < 16) : (s.push w h).inbox = s.inbox := rfl

/-! ### popToPc -/

@[simp] theorem popToPc_cfg (h : 0 < s.sp.val) : (s.popToPc h).cfg = s.cfg := rfl
@[simp] theorem popToPc_mem (h : 0 < s.sp.val) : (s.popToPc h).mem = s.mem := rfl
@[simp] theorem popToPc_v (h : 0 < s.sp.val) : (s.popToPc h).v = s.v := rfl
@[simp] theorem popToPc_i (h : 0 < s.sp.val) : (s.popToPc h).i = s.i := rfl
@[simp] theorem popToPc_pc (h : 0 < s.sp.val) : (s.popToPc h).pc = s.stack[s.sp.val - 1]'(by omega) := rfl
@[simp] theorem popToPc_stack (h : 0 < s.sp.val) : (s.popToPc h).stack = s.stack := rfl
@[simp] theorem popToPc_sp (h : 0 < s.sp.val) : (s.popToPc h).sp = ⟨s.sp.val - 1, by omega⟩ := rfl
@[simp] theorem popToPc_dt (h : 0 < s.sp.val) : (s.popToPc h).dt = s.dt := rfl
@[simp] theorem popToPc_st (h : 0 < s.sp.val) : (s.popToPc h).st = s.st := rfl
@[simp] theorem popToPc_fb (h : 0 < s.sp.val) : (s.popToPc h).fb = s.fb := rfl
@[simp] theorem popToPc_keys (h : 0 < s.sp.val) : (s.popToPc h).keys = s.keys := rfl
@[simp] theorem popToPc_dirty (h : 0 < s.sp.val) : (s.popToPc h).dirty = s.dirty := rfl
@[simp] theorem popToPc_wait (h : 0 < s.sp.val) : (s.popToPc h).wait = s.wait := rfl
@[simp] theorem popToPc_kprev (h : 0 < s.sp.val) : (s.popToPc h).kprev = s.kprev := rfl
@[simp] theorem popToPc_vbl (h : 0 < s.sp.val) : (s.popToPc h).vbl = s.vbl := rfl
@[simp] theorem popToPc_halt (h : 0 < s.sp.val) : (s.popToPc h).halt = s.halt := rfl
@[simp] theorem popToPc_err (h : 0 < s.sp.val) : (s.popToPc h).err = s.err := rfl
@[simp] theorem popToPc_accT (h : 0 < s.sp.val) : (s.popToPc h).accT = s.accT := rfl
@[simp] theorem popToPc_accI (h : 0 < s.sp.val) : (s.popToPc h).accI = s.accI := rfl
@[simp] theorem popToPc_rndIn (h : 0 < s.sp.val) : (s.popToPc h).rndIn = s.rndIn := rfl
@[simp] theorem popToPc_rndDrawn (h : 0 < s.sp.val) : (s.popToPc h).rndDrawn = s.rndDrawn := rfl
@[simp] theorem popToPc_due (h : 0 < s.sp.val) : (s.popToPc h).due = s.due := rfl
@[simp] theorem popToPc_inbox (h : 0 < s.sp.val) : (s.popToPc h).inbox = s.inbox := rfl

/-! ### raise -/

@[simp] theorem raise_cfg (k : ErrorKind) (op p : Word) : (s.raise k op p).cfg = s.cfg := rfl
@[simp] theorem raise_mem (k : ErrorKind) (op p : Word) : (s.raise k op p).mem = s.mem := rfl
@[simp] theorem raise_v (k : ErrorKind) (op p : Word) : (s.raise k op p).v = s.v := rfl
@[simp] theorem raise_i (k : ErrorKind) (op p : Word) : (s.raise k op p).i = s.i := rfl
@[simp] theorem raise_pc (k : ErrorKind) (op p : Word) : (s.raise k op p).pc = s.pc := rfl
@[simp] theorem raise_stack (k : ErrorKind) (op p : Word) : (s.raise k op p).stack = s.stack := rfl
@[simp] theorem raise_sp (k : ErrorKind) (op p : Word) : (s.raise k op p).sp = s.sp := rfl
@[simp] theorem raise_dt (k : ErrorKind) (op p : Word) : (s.raise k op p).dt = s.dt := rfl
@[simp] theorem raise_st (k : ErrorKind) (op p : Word) : (s.raise k op p).st = s.st := rfl
@[simp] theorem raise_fb (k : ErrorKind) (op p : Word) : (s.raise k op p).fb = s.fb := rfl
@[simp] theorem raise_keys (k : ErrorKind) (op p : Word) : (s.raise k op p).keys = s.keys := rfl
@[simp] theorem raise_dirty (k : ErrorKind) (op p : Word) : (s.raise k op p).dirty = s.dirty := rfl
@[simp] theorem raise_wait (k : ErrorKind) (op p : Word) : (s.raise k op p).wait = s.wait := rfl
@[simp] theorem raise_kprev (k : ErrorKind) (op p : Word) : (s.raise k op p).kprev = s.kprev := rfl
@[simp] theorem raise_vbl (k : ErrorKind) (op p : Word) : (s.raise k op p).vbl = s.vbl := rfl
@[simp] theorem raise_halt (k : ErrorKind) (op p : Word) : (s.raise k op p).halt = (s.halt || k.fatal s.cfg) := rfl
@[simp] theorem raise_err (k : ErrorKind) (op p : Word) : (s.raise k op p).err = some ⟨k, op, p⟩ := rfl
@[simp] theorem raise_accT (k : ErrorKind) (op p : Word) : (s.raise k op p).accT = s.accT := rfl
@[simp] theorem raise_accI (k : ErrorKind) (op p : Word) : (s.raise k op p).accI = s.accI := rfl
@[simp] theorem raise_rndIn (k : ErrorKind) (op p : Word) : (s.raise k op p).rndIn = s.rndIn := rfl
@[simp] theorem raise_rndDrawn (k : ErrorKind) (op p : Word) : (s.raise k op p).rndDrawn = s.rndDrawn := rfl
@[simp] theorem raise_due (k : ErrorKind) (op p : Word) : (s.raise k op p).due = s.due := rfl
@[simp] theorem raise_inbox (k : ErrorKind) (op p : Word) : (s.raise k op p).inbox = s.inbox := rfl

/-! ### drawRandom -/

@[simp] theorem drawRandom_cfg : (s.drawRandom).cfg = s.cfg := rfl
@[simp] theorem drawRandom_mem : (s.drawRandom).mem = s.mem := rfl
@[simp] theorem drawRandom_v : (s.drawRandom).v = s.v := rfl
@[simp] theorem drawRandom_i : (s.drawRandom).i = s.i := rfl
@[simp] theorem drawRandom_pc : (s.drawRandom).pc = s.pc := rfl
@[simp] theorem drawRandom_stack : (s.drawRandom).stack = s.stack := rfl
@[simp] theorem drawRandom_sp : (s.drawRandom).sp = s.sp := rfl
@[simp] theorem drawRandom_dt : (s.drawRandom).dt = s.dt := rfl
@[simp] theorem drawRandom_st : (s.drawRandom).st = s.st := rfl
@[simp] theorem drawRandom_fb : (s.drawRandom).fb = s.fb := rfl
@[simp] theorem drawRandom_keys : (s.drawRandom).keys = s.keys := rfl
@[simp] theorem drawRandom_dirty : (s.drawRandom).dirty = s.dirty := rfl
@[simp] theorem drawRandom_wait : (s.drawRandom).wait = s.wait := rfl
@[simp] theorem drawRandom_kprev : (s.drawRandom).kprev = s.kprev := rfl
@[simp] theorem drawRandom_vbl : (s.drawRandom).vbl = s.vbl := rfl
@[simp] theorem drawRandom_halt : (s.drawRandom).halt = s.halt := rfl
@[simp] theorem drawRandom_err : (s.drawRandom).err = s.err := rfl
@[simp] theorem drawRandom_accT : (s.drawRandom).accT = s.accT := rfl
@[simp] theorem drawRandom_accI : (s.drawRandom).accI = s.accI := rfl
@[simp] theorem drawRandom_rndIn : (s.drawRandom).rndIn = s.rndIn.tail := rfl
@[simp] theorem drawRandom_rndDrawn : (s.drawRandom).rndDrawn = s.rndDrawn + 1 := rfl
@[simp] theorem drawRandom_due : (s.drawRandom).due = s.due := rfl
@[simp] theorem drawRandom_inbox : (s.drawRandom).inbox = s.inbox := rfl

/-! ### drawSprite -/

@[simp] theorem drawSprite_cfg (x y : Reg) (n : BitVec 4) : (s.drawSprite x y n).cfg = s.cfg := rfl
@[simp] theorem drawSprite_mem (x y : Reg) (n : BitVec 4) : (s.drawSprite x y n).mem = s.mem := rfl
@[simp] theorem drawSprite_v (x y : Reg) (n : BitVec 4) : (s.drawSprite x y n).v = s.v.set VF (flagByte (drawPixels s.fb (spritePixels s x y n.toNat)).2) := rfl
@[simp] theorem drawSprite_i (x y : Reg) (n : BitVec 4) : (s.drawSprite x y n).i = s.i := rfl
@[simp] theorem drawSprite_pc (x y : Reg) (n : BitVec 4) : (s.drawSprite x y n).pc = s.pc := rfl
@[simp] theorem drawSprite_stack (x y : Reg) (n : BitVec 4) : (s.drawSprite x y n).stack = s.stack := rfl
@[simp] theorem drawSprite_sp (x y : Reg) (n : BitVec 4) : (s.drawSprite x y n).sp = s.sp := rfl
@[simp] theorem drawSprite_dt (x y : Reg) (n : BitVec 4) : (s.drawSprite x y n).dt = s.dt := rfl
@[simp] theorem drawSprite_st (x y : Reg) (n : BitVec 4) : (s.drawSprite x y n).st = s.st := rfl
@[simp] theorem drawSprite_fb (x y : Reg) (n : BitVec 4) : (s.drawSprite x y n).fb = (drawPixels s.fb (spritePixels s x y n.toNat)).1 := rfl
@[simp] theorem drawSprite_keys (x y : Reg) (n : BitVec 4) : (s.drawSprite x y n).keys = s.keys := rfl
@[simp] theorem drawSprite_dirty (x y : Reg) (n : BitVec 4) : (s.drawSprite x y n).dirty = (s.dirty || !(spritePixels s x y n.toNat).isEmpty) := rfl
@[simp] theorem drawSprite_wait (x y : Reg) (n : BitVec 4) : (s.drawSprite x y n).wait = s.wait := rfl
@[simp] theorem drawSprite_kprev (x y : Reg) (n : BitVec 4) : (s.drawSprite x y n).kprev = s.kprev := rfl
@[simp] theorem drawSprite_vbl (x y : Reg) (n : BitVec 4) : (s.drawSprite x y n).vbl = (s.vbl && !s.cfg.dispWait) := rfl
@[simp] theorem drawSprite_halt (x y : Reg) (n : BitVec 4) : (s.drawSprite x y n).halt = s.halt := rfl
@[simp] theorem drawSprite_err (x y : Reg) (n : BitVec 4) : (s.drawSprite x y n).err = s.err := rfl
@[simp] theorem drawSprite_accT (x y : Reg) (n : BitVec 4) : (s.drawSprite x y n).accT = s.accT := rfl
@[simp] theorem drawSprite_accI (x y : Reg) (n : BitVec 4) : (s.drawSprite x y n).accI = s.accI := rfl
@[simp] theorem drawSprite_rndIn (x y : Reg) (n : BitVec 4) : (s.drawSprite x y n).rndIn = s.rndIn := rfl
@[simp] theorem drawSprite_rndDrawn (x y : Reg) (n : BitVec 4) : (s.drawSprite x y n).rndDrawn = s.rndDrawn := rfl
@[simp] theorem drawSprite_due (x y : Reg) (n : BitVec 4) : (s.drawSprite x y n).due = s.due := rfl
@[simp] theorem drawSprite_inbox (x y : Reg) (n : BitVec 4) : (s.drawSprite x y n).inbox = s.inbox := rfl

/-! ### tick -/

@[simp] theorem tick_cfg : (s.tick).cfg = s.cfg := rfl
@[simp] theorem tick_mem : (s.tick).mem = s.mem := rfl
@[simp] theorem tick_v : (s.tick).v = s.v := rfl
@[simp] theorem tick_i : (s.tick).i = s.i := rfl
@[simp] theorem tick_pc : (s.tick).pc = s.pc := rfl
@[simp] theorem tick_stack : (s.tick).stack = s.stack := rfl
@[simp] theorem tick_sp : (s.tick).sp = s.sp := rfl
@[simp] theorem tick_dt : (s.tick).dt = countDown s.dt := rfl
@[simp] theorem tick_st : (s.tick).st = countDown s.st := rfl
@[simp] theorem tick_fb : (s.tick).fb = s.fb := rfl
@[simp] theorem tick_keys : (s.tick).keys = s.keys := rfl
@[simp] theorem tick_dirty : (s.tick).dirty = s.dirty := rfl
@[simp] theorem tick_wait : (s.tick).wait = s.wait := rfl
@[simp] theorem tick_kprev : (s.tick).kprev = s.kprev := rfl
@[simp] theorem tick_vbl : (s.tick).vbl = true := rfl
@[simp] theorem tick_halt : (s.tick).halt = s.halt := rfl
@[simp] theorem tick_err : (s.tick).err = s.err := rfl
@[simp] theorem tick_accT : (s.tick).accT = s.accT := rfl
@[simp] theorem tick_accI : (s.tick).accI = s.accI := rfl
@[simp] theorem tick_rndIn : (s.tick).rndIn = s.rndIn := rfl
@[simp] theorem tick_rndDrawn : (s.tick).rndDrawn = s.rndDrawn := rfl
@[simp] theorem tick_due : (s.tick).due = s.due := rfl
@[simp] theorem tick_inbox : (s.tick).inbox = s.inbox := rfl

/-! ### setKeys -/

@[simp] theorem setKeys_cfg (k : BitVec 16) : (s.setKeys k).cfg = s.cfg := rfl
@[simp] theorem setKeys_mem (k : BitVec 16) : (s.setKeys k).mem = s.mem := rfl
@[simp] theorem setKeys_v (k : BitVec 16) : (s.setKeys k).v = s.v := rfl
@[simp] theorem setKeys_i (k : BitVec 16) : (s.setKeys k).i = s.i := rfl
@[simp] theorem setKeys_pc (k : BitVec 16) : (s.setKeys k).pc = s.pc := rfl
@[simp] theorem setKeys_stack (k : BitVec 16) : (s.setKeys k).stack = s.stack := rfl
@[simp] theorem setKeys_sp (k : BitVec 16) : (s.setKeys k).sp = s.sp := rfl
@[simp] theorem setKeys_dt (k : BitVec 16) : (s.setKeys k).dt = s.dt := rfl
@[simp] theorem setKeys_st (k : BitVec 16) : (s.setKeys k).st = s.st := rfl
@[simp] theorem setKeys_fb (k : BitVec 16) : (s.setKeys k).fb = s.fb := rfl
@[simp] theorem setKeys_keys (k : BitVec 16) : (s.setKeys k).keys = k := rfl
@[simp] theorem setKeys_dirty (k : BitVec 16) : (s.setKeys k).dirty = s.dirty := rfl
@[simp] theorem setKeys_wait (k : BitVec 16) : (s.setKeys k).wait = s.wait := rfl
@[simp] theorem setKeys_kprev (k : BitVec 16) : (s.setKeys k).kprev = s.kprev := rfl
@[simp] theorem setKeys_vbl (k : BitVec 16) : (s.setKeys k).vbl = s.vbl := rfl
@[simp] theorem setKeys_halt (k : BitVec 16) : (s.setKeys k).halt = s.halt := rfl
@[simp] theorem setKeys_err (k : BitVec 16) : (s.setKeys k).err = s.err := rfl
@[simp] theorem setKeys_accT (k : BitVec 16) : (s.setKeys k).accT = s.accT := rfl
@[simp] theorem setKeys_accI (k : BitVec 16) : (s.setKeys k).accI = s.accI := rfl
@[simp] theorem setKeys_rndIn (k : BitVec 16) : (s.setKeys k).rndIn = s.rndIn := rfl
@[simp] theorem setKeys_rndDrawn (k : BitVec 16) : (s.setKeys k).rndDrawn = s.rndDrawn := rfl
@[simp] theorem setKeys_due (k : BitVec 16) : (s.setKeys k).due = s.due := rfl
@[simp] theorem setKeys_inbox (k : BitVec 16) : (s.setKeys k).inbox = s.inbox := rfl

/-! ### supplyRandom -/

@[simp] theorem supplyRandom_cfg (bs : List Byte) : (s.supplyRandom bs).cfg = s.cfg := rfl
@[simp] theorem supplyRandom_mem (bs : List Byte) : (s.supplyRandom bs).mem = s.mem := rfl
@[simp] theorem supplyRandom_v (bs : List Byte) : (s.supplyRandom bs).v = s.v := rfl
@[simp] theorem supplyRandom_i (bs : List Byte) : (s.supplyRandom bs).i = s.i := rfl
@[simp] theorem supplyRandom_pc (bs : List Byte) : (s.supplyRandom bs).pc = s.pc := rfl
@[simp] theorem supplyRandom_stack (bs : List Byte) : (s.supplyRandom bs).stack = s.stack := rfl
@[simp] theorem supplyRandom_sp (bs : List Byte) : (s.supplyRandom bs).sp = s.sp := rfl
@[simp] theorem supplyRandom_dt (bs : List Byte) : (s.supplyRandom bs).dt = s.dt := rfl
@[simp] theorem supplyRandom_st (bs : List Byte) : (s.supplyRandom bs).st = s.st := rfl
@[simp] theorem supplyRandom_fb (bs : List Byte) : (s.supplyRandom bs).fb = s.fb := rfl
@[simp] theorem supplyRandom_keys (bs : List Byte) : (s.supplyRandom bs).keys = s.keys := rfl
@[simp] theorem supplyRandom_dirty (bs : List Byte) : (s.supplyRandom bs).dirty = s.dirty := rfl
@[simp] theorem supplyRandom_wait (bs : List Byte) : (s.supplyRandom bs).wait = s.wait := rfl
@[simp] theorem supplyRandom_kprev (bs : List Byte) : (s.supplyRandom bs).kprev = s.kprev := rfl
@[simp] theorem supplyRandom_vbl (bs : List Byte) : (s.supplyRandom bs).vbl = s.vbl := rfl
@[simp] theorem supplyRandom_halt (bs : List Byte) : (s.supplyRandom bs).halt = s.halt := rfl
@[simp] theorem supplyRandom_err (bs : List Byte) : (s.supplyRandom bs).err = s.err := rfl
@[simp] theorem supplyRandom_accT (bs : List Byte) : (s.supplyRandom bs).accT = s.accT := rfl
@[simp] theorem supplyRandom_accI (bs : List Byte) : (s.supplyRandom bs).accI = s.accI := rfl
@[simp] theorem supplyRandom_rndIn (bs : List Byte) : (s.supplyRandom bs).rndIn = s.rndIn ++ bs := rfl
@[simp] theorem supplyRandom_rndDrawn (bs : List Byte) : (s.supplyRandom bs).rndDrawn = s.rndDrawn := rfl
@[simp] theorem supplyRandom_due (bs : List Byte) : (s.supplyRandom bs).due = s.due := rfl
@[simp] theorem supplyRandom_inbox (bs : List Byte) : (s.supplyRandom bs).inbox = s.inbox := rfl

/-! ### skipIf -/

@[simp] theorem skipIf_cfg (b : Bool) : (s.skipIf b).cfg = s.cfg := by
  unfold State.skipIf; split <;> rfl
@[simp] theorem skipIf_mem (b : Bool) : (s.skipIf b).mem = s.mem := by
  unfold State.skipIf; split <;> rfl
@[simp] theorem skipIf_v (b : Bool) : (s.skipIf b).v = s.v := by
  unfold State.skipIf; split <;> rfl
@[simp] theorem skipIf_i (b : Bool) : (s.skipIf b).i = s.i := by
  unfold State.skipIf; split <;> rfl
@[simp] theorem skipIf_pc (b : Bool) : (s.skipIf b).pc = if b then s.pc + 2 else s.pc := by
  unfold State.skipIf; split <;> rfl
@[simp] theorem skipIf_stack (b : Bool) : (s.skipIf b).stack = s.stack := by
  unfold State.skipIf; split <;> rfl
@[simp] theorem skipIf_sp (b : Bool) : (s.skipIf b).sp = s.sp := by
  unfold State.skipIf; split <;> rfl
@[simp] theorem skipIf_dt (b : Bool) : (s.skipIf b).dt = s.dt := by
  unfold State.skipIf; split <;> rfl
@[simp] theorem skipIf_st (b : Bool) : (s.skipIf b).st = s.st := by
  unfold State.skipIf; split <;> rfl
@[simp] theorem skipIf_fb (b : Bool) : (s.skipIf b).fb = s.fb := by
  unfold State.skipIf; split <;> rfl
@[simp] theorem skipIf_keys (b : Bool) : (s.skipIf b).keys = s.keys := by
  unfold State.skipIf; split <;> rfl
@[simp] theorem skipIf_dirty (b : Bool) : (s.skipIf b).dirty = s.dirty := by
  unfold State.skipIf; split <;> rfl
@[simp] theorem skipIf_wait (b : Bool) : (s.skipIf b).wait = s.wait := by
  unfold State.skipIf; split <;> rfl
@[simp] theorem skipIf_kprev (b : Bool) : (s.skipIf b).kprev = s.kprev := by
  unfold State.skipIf; split <;> rfl
@[simp] theorem skipIf_vbl (b : Bool) : (s.skipIf b).vbl = s.vbl := by
  unfold State.skipIf; split <;> rfl
@[simp] theorem skipIf_halt (b : Bool) : (s.skipIf b).halt = s.halt := by
  unfold State.skipIf; split <;> rfl
@[simp] theorem skipIf_err (b : Bool) : (s.skipIf b).err = s.err := by
  unfold State.skipIf; split <;> rfl
@[simp] theorem skipIf_accT (b : Bool) : (s.skipIf b).accT = s.accT := by
  unfold State.skipIf; split <;> rfl
@[simp] theorem skipIf_accI (b : Bool) : (s.skipIf b).accI = s.accI := by
  unfold State.skipIf; split <;> rfl
@[simp] theorem skipIf_rndIn (b : Bool) : (s.skipIf b).rndIn = s.rndIn := by
  unfold State.skipIf; split <;> rfl
@[simp] theorem skipIf_rndDrawn (b : Bool) : (s.skipIf b).rndDrawn = s.rndDrawn := by
  unfold State.skipIf; split <;> rfl
@[simp] theorem skipIf_due (b : Bool) : (s.skipIf b).due = s.due := by
  unfold State.skipIf; split <;> rfl
@[simp] theorem skipIf_inbox (b : Bool) : (s.skipIf b).inbox = s.inbox := by
  unfold State.skipIf; split <;> rfl

/-! ### advanceI -/

@[simp] theorem advanceI_cfg (x : Reg) : (s.advanceI x).cfg = s.cfg := by
  unfold State.advanceI; split <;> rfl
@[simp] theorem advanceI_mem (x : Reg) : (s.advanceI x).mem = s.mem := by
  unfold State.advanceI; split <;> rfl
@[simp] theorem advanceI_v (x : Reg) : (s.advanceI x).v = s.v := by
  unfold State.advanceI; split <;> rfl
@[simp] theorem advanceI_i (x : Reg) : (s.advanceI x).i = if s.cfg.memIncr then wrapI s.cfg (s.i.toNat + x.val + 1) else s.i := by
  unfold State.advanceI; split <;> rfl
@[simp] theorem advanceI_pc (x : Reg) : (s.advanceI x).pc = s.pc := by
  unfold State.advanceI; split <;> rfl
@[simp] theorem advanceI_stack (x : Reg) : (s.advanceI x).stack = s.stack := by
  unfold State.advanceI; split <;> rfl
@[simp] theorem advanceI_sp (x : Reg) : (s.advanceI x).sp = s.sp := by
  unfold State.advanceI; split <;> rfl
@[simp] theorem advanceI_dt (x : Reg) : (s.advanceI x).dt = s.dt := by
  unfold State.advanceI; split <;> rfl
@[simp] theorem advanceI_st (x : Reg) : (s.advanceI x).st = s.st := by
  unfold State.advanceI; split <;> rfl
@[simp] theorem advanceI_fb (x : Reg) : (s.advanceI x).fb = s.fb := by
  unfold State.advanceI; split <;> rfl
@[simp] theorem advanceI_keys (x : Reg) : (s.advanceI x).keys = s.keys := by
  unfold State.advanceI; split <;> rfl
@[simp] theorem advanceI_dirty (x : Reg) : (s.advanceI x).dirty = s.dirty := by
  unfold State.advanceI; split <;> rfl
@[simp] theorem advanceI_wait (x : Reg) : (s.advanceI x).wait = s.wait := by
  unfold State.advanceI; split <;> rfl
@[simp] theorem advanceI_kprev (x : Reg) : (s.advanceI x).kprev = s.kprev := by
  unfold State.advanceI; split <;> rfl
@[simp] theorem advanceI_vbl (x : Reg) : (s.advanceI x).vbl = s.vbl := by
  unfold State.advanceI; split <;> rfl
@[simp] theorem advanceI_halt (x : Reg) : (s.advanceI x).halt = s.halt := by
  unfold State.advanceI; split <;> rfl
@[simp] theorem advanceI_err (x : Reg) : (s.advanceI x).err = s.err := by
  unfold State.advanceI; split <;> rfl
@[simp] theorem advanceI_accT (x : Reg) : (s.advanceI x).accT = s.accT := by
  unfold State.advanceI; split <;> rfl
@[simp] theorem advanceI_accI (x : Reg) : (s.advanceI x).accI = s.accI := by
  unfold State.advanceI; split <;> rfl
@[simp] theorem advanceI_rndIn (x : Reg) : (s.advanceI x).rndIn = s.rndIn := by
  unfold State.advanceI; split <;> rfl
@[simp] theorem advanceI_rndDrawn (x : Reg) : (s.advanceI x).rndDrawn = s.rndDrawn := by
  unfold State.advanceI; split <;> rfl
@[simp] theorem advanceI_due (x : Reg) : (s.advanceI x).due = s.due := by
  unfold State.advanceI; split <;> rfl
@[simp] theorem advanceI_inbox (x : Reg) : (s.advanceI x).inbox = s.inbox := by
  unfold State.advanceI; split <;> rfl

/-! ### setLogicResult -/

@[simp] theorem setLogicResult_cfg (x : Reg) (b : Byte) : (s.setLogicResult x b).cfg = s.cfg := by
  unfold State.setLogicResult; split <;> rfl
@[simp] theorem setLogicResult_mem (x : Reg) (b : Byte) : (s.setLogicResult x b).mem = s.mem := by
  unfold State.setLogicResult; split <;> rfl
@[simp] theorem setLogicResult_v (x : Reg) (b : Byte) : (s.setLogicResult x b).v = if s.cfg.vfReset then (s.v.set x b).set VF 0 else s.v.set x b := by
  unfold State.setLogicResult; split <;> rfl
@[simp] theorem setLogicResult_i (x : Reg) (b : Byte) : (s.setLogicResult x b).i = s.i := by
  unfold State.setLogicResult; split <;> rfl
@[simp] theorem setLogicResult_pc (x : Reg) (b : Byte) : (s.setLogicResult x b).pc = s.pc := by
  unfold State.setLogicResult; split <;> rfl
@[simp] theorem setLogicResult_stack (x : Reg) (b : Byte) : (s.setLogicResult x b).stack = s.stack := by
  unfold State.setLogicResult; split <;> rfl
@[simp] theorem setLogicResult_sp (x : Reg) (b : Byte) : (s.setLogicResult x b).sp = s.sp := by
  unfold State.setLogicResult; split <;> rfl
@[simp] theorem setLogicResult_dt (x : Reg) (b : Byte) : (s.setLogicResult x b).dt = s.dt := by
  unfold State.setLogicResult; split <;> rfl
@[simp] theorem setLogicResult_st (x : Reg) (b : Byte) : (s.setLogicResult x b).st = s.st := by
  unfold State.setLogicResult; split <;> rfl
@[simp] theorem setLogicResult_fb (x : Reg) (b : Byte) : (s.setLogicResult x b).fb = s.fb := by
  unfold State.setLogicResult; split <;> rfl
@[simp] theorem setLogicResult_keys (x : Reg) (b : Byte) : (s.setLogicResult x b).keys = s.keys := by
  unfold State.setLogicResult; split <;> rfl
@[simp] theorem setLogicResult_dirty (x : Reg) (b : Byte) : (s.setLogicResult x b).dirty = s.dirty := by
  unfold State.setLogicResult; split <;> rfl
@[simp] theorem setLogicResult_wait (x : Reg) (b : Byte) : (s.setLogicResult x b).wait = s.wait := by
  unfold State.setLogicResult; split <;> rfl
@[simp] theorem setLogicResult_kprev (x : Reg) (b : Byte) : (s.setLogicResult x b).kprev = s.kprev := by
  unfold State.setLogicResult; split <;> rfl
@[simp] theorem setLogicResult_vbl (x : Reg) (b : Byte) : (s.setLogicResult x b).vbl = s.vbl := by
  unfold State.setLogicResult; split <;> rfl
@[simp] theorem setLogicResult_halt (x : Reg) (b : Byte) : (s.setLogicResult x b).halt = s.halt := by
  unfold State.setLogicResult; split <;> rfl
@[simp] theorem setLogicResult_err (x : Reg) (b : Byte) : (s.setLogicResult x b).err = s.err := by
  unfold State.setLogicResult; split <;> rfl
@[simp] theorem setLogicResult_accT (x : Reg) (b : Byte) : (s.setLogicResult x b).accT = s.accT := by
  unfold State.setLogicResult; split <;> rfl
@[simp] theorem setLogicResult_accI (x : Reg) (b : Byte) : (s.setLogicResult x b).accI = s.accI := by
  unfold State.setLogicResult; split <;> rfl
@[simp] theorem setLogicResult_rndIn (x : Reg) (b : Byte) : (s.setLogicResult x b).rndIn = s.rndIn := by
  unfold State.setLogicResult; split <;> rfl
@[simp] theorem setLogicResult_rndDrawn (x : Reg) (b : Byte) : (s.setLogicResult x b).rndDrawn = s.rndDrawn := by
  unfold State.setLogicResult; split <;> rfl
@[simp] theorem setLogicResult_due (x : Reg) (b : Byte) : (s.setLogicResult x b).due = s.due := by
  unfold State.setLogicResult; split <;> rfl
@[simp] theorem setLogicResult_inbox (x : Reg) (b : Byte) : (s.setLogicResult x b).inbox = s.inbox := by
  unfold State.setLogicResult; split <;> rfl

/-! ### setResultAndFlag -/

@[simp] theorem setResultAndFlag_cfg (x : Reg) (r g : Byte) : (s.setResultAndFlag x r g).cfg = s.cfg := rfl
@[simp] theorem setResultAndFlag_mem (x : Reg) (r g : Byte) : (s.setResultAndFlag x r g).mem = s.mem := rfl
@[simp] theorem setResultAndFlag_v (x : Reg) (r g : Byte) : (s.setResultAndFlag x r g).v = (s.v.set x r).set VF g := rfl
@[simp] theorem setResultAndFlag_i (x : Reg) (r g : Byte) : (s.setResultAndFlag x r g).i = s.i := rfl
@[simp] theorem setResultAndFlag_pc (x : Reg) (r g : Byte) : (s.setResultAndFlag x r g).pc = s.pc := rfl
@[simp] theorem setResultAndFlag_stack (x : Reg) (r g : Byte) : (s.setResultAndFlag x r g).stack = s.stack := rfl
@[simp] theorem setResultAndFlag_sp (x : Reg) (r g : Byte) : (s.setResultAndFlag x r g).sp = s.sp := rfl
@[simp] theorem setResultAndFlag_dt (x : Reg) (r g : Byte) : (s.setResultAndFlag x r g).dt = s.dt := rfl
@[simp] theorem setResultAndFlag_st (x : Reg) (r g : Byte) : (s.setResultAndFlag x r g).st = s.st := rfl
@[simp] theorem setResultAndFlag_fb (x : Reg) (r g : Byte) : (s.setResultAndFlag x r g).fb = s.fb := rfl
@[simp] theorem setResultAndFlag_keys (x : Reg) (r g : Byte) : (s.setResultAndFlag x r g).keys = s.keys := rfl
@[simp] theorem setResultAndFlag_dirty (x : Reg) (r g : Byte) : (s.setResultAndFlag x r g).dirty = s.dirty := rfl
@[simp] theorem setResultAndFlag_wait (x : Reg) (r g : Byte) : (s.setResultAndFlag x r g).wait = s.wait := rfl
@[simp] theorem setResultAndFlag_kprev (x : Reg) (r g : Byte) : (s.setResultAndFlag x r g).kprev = s.kprev := rfl
@[simp] theorem setResultAndFlag_vbl (x : Reg) (r g : Byte) : (s.setResultAndFlag x r g).vbl = s.vbl := rfl
@[simp] theorem setResultAndFlag_halt (x : Reg) (r g : Byte) : (s.setResultAndFlag x r g).halt = s.halt := rfl
@[simp] theorem setResultAndFlag_err (x : Reg) (r g : Byte) : (s.setResultAndFlag x r g).err = s.err := rfl
@[simp] theorem setResultAndFlag_accT (x : Reg) (r g : Byte) : (s.setResultAndFlag x r g).accT = s.accT := rfl
@[simp] theorem setResultAndFlag_accI (x : Reg) (r g : Byte) : (s.setResultAndFlag x r g).accI = s.accI := rfl
@[simp] theorem setResultAndFlag_rndIn (x : Reg) (r g : Byte) : (s.setResultAndFlag x r g).rndIn = s.rndIn := rfl
@[simp] theorem setResultAndFlag_rndDrawn (x : Reg) (r g : Byte) : (s.setResultAndFlag x r g).rndDrawn = s.rndDrawn := rfl
@[simp] theorem setResultAndFlag_due (x : Reg) (r g : Byte) : (s.setResultAndFlag x r g).due = s.due := rfl
@[simp] theorem setResultAndFlag_inbox (x : Reg) (r g : Byte) : (s.setResultAndFlag x r g).inbox = s.inbox := rfl

end Sys2Proof.Machine
end

