-- ==== Sys2Proof/Laws/Ops.lean ====
section
/-! SUPPORT. What each shared operation does, said once: registers, I, memory blocks, block loads, key scan, draws. -/

namespace Sys2Proof.Machine

variable (s : State)

/-! ### Registers and memory read through the updates -/

theorem getV_eq (r : Reg) : s.getV r = s.v[r] := rfl

theorem getV_setV (r q : Reg) (b : Byte) : (s.setV r b).getV q = if q = r then b else s.getV q := by
  simp only [State.getV, setV_v, Fin.getElem_fin, Vector.getElem_set]
  by_cases h : q = r
  · simp [h]
  · have : r.val ≠ q.val := fun e => h (Fin.ext e.symm)
    simp [h, this]

@[simp] theorem getV_setV_self (r : Reg) (b : Byte) : (s.setV r b).getV r = b := by simp [getV_setV]

theorem getV_setV_other (r q : Reg) (b : Byte) (h : q ≠ r) : (s.setV r b).getV q = s.getV q := by simp [getV_setV, h]

/-- A result and its flag: VF holds the flag, whichever register the result went to (10_state R25). -/
theorem getV_setResultAndFlag (x q : Reg) (result flag : Byte) :
    (s.setResultAndFlag x result flag).getV q = if q = VF then flag else if q = x then result else s.getV q := by
  simp only [State.setResultAndFlag, getV_setV]

@[simp] theorem getV_setI (n : Nat) (q : Reg) : (s.setI n).getV q = s.getV q := rfl
@[simp] theorem getV_setPc (w : Word) (q : Reg) : (s.setPc w).getV q = s.getV q := rfl
@[simp] theorem getV_stall (q : Reg) : (s.stall).getV q = s.getV q := rfl
@[simp] theorem getV_writeMem (a : Nat) (bs : List Byte) (q : Reg) : (s.writeMem a bs).getV q = s.getV q := rfl
@[simp] theorem getV_push (w : Word) (h : s.sp.val < 16) (q : Reg) : (s.push w h).getV q = s.getV q := rfl
@[simp] theorem getV_popToPc (h : 0 < s.sp.val) (q : Reg) : (s.popToPc h).getV q = s.getV q := rfl
@[simp] theorem getV_raise (k : ErrorKind) (op p : Word) (q : Reg) : (s.raise k op p).getV q = s.getV q := rfl
@[simp] theorem getV_drawRandom (q : Reg) : (s.drawRandom).getV q = s.getV q := rfl
@[simp] theorem getV_tick (q : Reg) : (s.tick).getV q = s.getV q := rfl

@[simp] theorem readMem_setV (r : Reg) (b : Byte) (a : Nat) : (s.setV r b).readMem a = s.readMem a := rfl
@[simp] theorem readMem_setI (n : Nat) (a : Nat) : (s.setI n).readMem a = s.readMem a := rfl
@[simp] theorem readMem_setPc (w : Word) (a : Nat) : (s.setPc w).readMem a = s.readMem a := rfl
@[simp] theorem readMem_stall (a : Nat) : (s.stall).readMem a = s.readMem a := rfl
@[simp] theorem readMem_push (w : Word) (h : s.sp.val < 16) (a : Nat) : (s.push w h).readMem a = s.readMem a := rfl
@[simp] theorem readMem_popToPc (h : 0 < s.sp.val) (a : Nat) : (s.popToPc h).readMem a = s.readMem a := rfl
@[simp] theorem readMem_raise (k : ErrorKind) (op p : Word) (a : Nat) : (s.raise k op p).readMem a = s.readMem a := rfl
@[simp] theorem readMem_drawRandom (a : Nat) : (s.drawRandom).readMem a = s.readMem a := rfl
@[simp] theorem readMem_tick (a : Nat) : (s.tick).readMem a = s.readMem a := rfl
@[simp] theorem readMem_loadRegsFrom (b : Nat) (x : Reg) (a : Nat) : (s.loadRegsFrom b x).readMem a = s.readMem a := rfl
@[simp] theorem readMem_drawSprite (x y : Reg) (n : BitVec 4) (a : Nat) : (s.drawSprite x y n).readMem a = s.readMem a := rfl

@[simp] theorem getV_skipIf (b : Bool) (q : Reg) : (s.skipIf b).getV q = s.getV q := by simp [State.getV]

@[simp] theorem readMem_skipIf (b : Bool) (a : Nat) : (s.skipIf b).readMem a = s.readMem a := by simp [State.readMem]

@[simp] theorem getV_advanceI (x q : Reg) : (s.advanceI x).getV q = s.getV q := by simp [State.getV]

@[simp] theorem readMem_advanceI (x : Reg) (a : Nat) : (s.advanceI x).readMem a = s.readMem a := by simp [State.readMem]

@[simp] theorem readMem_setResultAndFlag (x : Reg) (r g : Byte) (a : Nat) :
    (s.setResultAndFlag x r g).readMem a = s.readMem a := rfl

@[simp] theorem readMem_setLogicResult (x : Reg) (b : Byte) (a : Nat) : (s.setLogicResult x b).readMem a = s.readMem a := by
  simp [State.readMem]

/-- The logic instructions: the result, and VF cleared after it under Q.vf_reset (43_logic_shift R185). -/
theorem getV_setLogicResult (x q : Reg) (b : Byte) :
    (s.setLogicResult x b).getV q = if s.cfg.vfReset = true ∧ q = VF then 0 else if q = x then b else s.getV q := by
  unfold State.setLogicResult
  cases s.cfg.vfReset <;> simp [getV_setResultAndFlag, getV_setV]

/-- A draw writes one register, VF. -/
theorem getV_drawSprite (x y q : Reg) (n : BitVec 4) :
    (s.drawSprite x y n).getV q =
      if q = VF then flagByte (drawPixels s.fb (spritePixels s x y n.toNat)).2 else s.getV q :=
  getV_setV s VF q _

/-- Addresses outside a stored block read as before. -/
theorem readMem_writeMem_outside (a b : Nat) (bs : List Byte) (h : ¬(a ≤ b ∧ b < a + bs.length)) :
    (s.writeMem a bs).readMem b = s.readMem b :=
  read_writeBytes_outside s.cfg bs s.mem a b h

/-- Byte `k` of a stored block reads back. -/
theorem readMem_writeMem_inside (a k : Nat) (bs : List Byte) (h : Memory.wf s.cfg s.mem) (ha : a + bs.length ≤ memSize)
    (hk : k < bs.length) : (s.writeMem a bs).readMem (a + k) = bs[k] :=
  read_writeBytes_inside s.cfg bs s.mem a k h ha hk

/-! ### The index register -/

theorem wrapI_le (c : Config) (n : Nat) : (wrapI c n).toNat ≤ 0xFFF := by
  unfold wrapI
  split <;> simp only [BitVec.toNat_ofNat] <;> omega

theorem wrapI_of_le (c : Config) (n : Nat) (h : n ≤ 0xFFF) : (wrapI c n).toNat = n := by
  unfold wrapI
  split <;> simp only [BitVec.toNat_ofNat] <;> omega

/-! ### V0 to Vx -/

@[simp] theorem mem_regsUpTo (x r : Reg) : r ∈ regsUpTo x ↔ r ≤ x := by
  have : r ∈ allRegs := by revert r; decide
  simp [regsUpTo, this]

@[simp] theorem length_regsUpTo (x : Reg) : (regsUpTo x).length = x.val + 1 := by
  revert x; decide

theorem regsUpTo_eq_take (x : Reg) : regsUpTo x = allRegs.take (x.val + 1) := by
  revert x; decide

theorem getElem_regsUpTo (x : Reg) (k : Nat) (h : k < (regsUpTo x).length) : ((regsUpTo x)[k]).val = k := by
  have hall : ∀ j : Fin 16, (allRegs[j.val]'j.isLt).val = j.val := by decide
  have hk : k < 16 := by
    have := length_regsUpTo x
    omega
  simp only [regsUpTo_eq_take, List.getElem_take]
  exact hall ⟨k, hk⟩

/-- A block load: the listed registers hold their bytes, the others are as before. -/
theorem getElem_loadInto (a : Nat) (rs : List Reg) (v : Vector Byte 16) (q : Reg) :
    (loadInto s a rs v)[q] = if q ∈ rs then s.readMem (a + q) else v[q] := by
  induction rs generalizing v with
  | nil => simp [loadInto]
  | cons r rs ih =>
    rw [loadInto, ih]
    by_cases hq : q ∈ rs
    · simp [hq]
    · by_cases h : q = r
      · simp [h]
      · have : r.val ≠ q.val := fun e => h (Fin.ext e.symm)
        simp [hq, h, this]

theorem getV_loadRegsFrom (a : Nat) (x q : Reg) :
    (s.loadRegsFrom a x).getV q = if q ≤ x then s.readMem (a + q) else s.getV q := by
  simp only [State.getV, loadRegsFrom_v]
  rw [getElem_loadInto]
  simp

/-! ### The key scan -/

theorem leastKey_none (keys : BitVec 16) : leastKey keys = none ↔ ∀ k : Reg, keys.getLsbD k.val = false := by
  have hall : ∀ k : Reg, k ∈ allRegs := by decide
  simp [leastKey, List.find?_eq_none, hall]

/-- The key found is in the vector and no lower one is. -/
theorem leastKey_some (keys : BitVec 16) (k : Reg) (h : leastKey keys = some k) :
    keys.getLsbD k.val = true ∧ ∀ j : Reg, j < k → keys.getLsbD j.val = false := by
  have hsorted : allRegs.Pairwise (· < ·) := by decide
  have hall : ∀ k : Reg, k ∈ allRegs := by decide
  obtain ⟨hk, as, bs, hsplit, has⟩ := List.find?_eq_some_iff_append.mp h
  refine ⟨hk, fun j hj => ?_⟩
  have hmem := hall j
  rw [hsplit] at hmem hsorted
  rcases List.mem_append.mp hmem with hm | hm
  · simpa using has j hm
  · rw [List.pairwise_append, List.pairwise_cons] at hsorted
    rcases List.mem_cons.mp hm with rfl | hm
    · exact absurd hj (lt_irrefl _)
    · exact absurd (hsorted.2.1.1 j hm) (lt_asymm hj)

/-! ### The display -/

theorem pixelOf_withPixel (fb : Framebuffer) (row row' : Fin 32) (col col' : Fin 64) (b : Bool) :
    pixelOf (withPixel fb row col b) row' col' = if row' = row ∧ col' = col then b else pixelOf fb row' col' := by
  unfold pixelOf withPixel
  simp only [Fin.getElem_fin, Vector.getElem_set]
  by_cases hr : row = row'
  · subst hr
    by_cases hc : col = col'
    · simp [hc]
    · have : col.val ≠ col'.val := fun e => hc (Fin.ext e)
      simp [this, Ne.symm hc]
  · have : row.val ≠ row'.val := fun e => hr (Fin.ext e)
    simp [this, Ne.symm hr]

@[simp] theorem pixelOf_blankDisplay (row : Fin 32) (col : Fin 64) : pixelOf blankDisplay row col = false := by
  simp [pixelOf, blankDisplay]

/-- A draw that visits no pixel twice toggles exactly the pixels it visits, and collides exactly when one of them was on. -/
theorem foldl_drawPixel (ps : List (Fin 32 × Fin 64)) (hd : ps.Nodup) (acc : Framebuffer × Bool) :
    (∀ row col, pixelOf (ps.foldl drawPixel acc).1 row col = (pixelOf acc.1 row col ^^ decide ((row, col) ∈ ps))) ∧
      (ps.foldl drawPixel acc).2 = (acc.2 || ps.any fun p => pixelOf acc.1 p.1 p.2) := by
  induction ps generalizing acc with
  | nil => simp
  | cons p ps ih =>
    obtain ⟨hp, hd⟩ := List.nodup_cons.mp hd
    obtain ⟨h1, h2⟩ := ih hd (drawPixel acc p)
    refine ⟨fun row col => ?_, ?_⟩
    · rw [List.foldl_cons, h1]
      simp only [drawPixel, pixelOf_withPixel]
      by_cases h : row = p.1 ∧ col = p.2
      · obtain ⟨rfl, rfl⟩ := h
        simp [hp]
      · have : (row, col) ≠ p := fun e => h (by simp [← e])
        simp [h, this]
    · rw [List.foldl_cons, h2]
      have hany : (ps.any fun q => pixelOf (drawPixel acc p).1 q.1 q.2) = ps.any fun q => pixelOf acc.1 q.1 q.2 := by
        rw [Bool.eq_iff_iff, List.any_eq_true, List.any_eq_true]
        refine exists_congr fun q => and_congr_right fun hq => ?_
        have : ¬(q.1 = p.1 ∧ q.2 = p.2) := fun e => hp (by rw [show p = q from Prod.ext e.1.symm e.2.symm]; exact hq)
        simp [drawPixel, pixelOf_withPixel, this]
      rw [hany]
      simp [drawPixel, Bool.or_assoc]

/-- The pixels a draw visits: those a 1 bit of the sprite falls on, unless it is dropped. -/
theorem mem_spritePixels (x y : Reg) (n : Nat) (p : Fin 32 × Fin 64) :
    p ∈ spritePixels s x y n ↔ ∃ r < n, ∃ c < 8, spriteBit (s.readMem (s.ea r)) c = true ∧
      target s.cfg ((drawOrigin s x y).1 + r) ((drawOrigin s x y).2 + c) = some p := by
  simp only [spritePixels, List.mem_flatMap, List.mem_range, List.mem_filterMap, Option.ite_none_right_eq_some]

/-- Two positions less than a display apart fall on one pixel only if they are the same (45_display R221(e)). -/
theorem target_injective (c : Config) (row row' col col' base base' : Nat) (p : Fin 32 × Fin 64)
    (hr : base ≤ row ∧ row < base + 32 ∧ base ≤ row' ∧ row' < base + 32)
    (hc : base' ≤ col ∧ col < base' + 64 ∧ base' ≤ col' ∧ col' < base' + 64)
    (h : target c row col = some p) (h' : target c row' col' = some p) : row = row' ∧ col = col' := by
  unfold target at h h'
  cases hclip : c.clip
  · simp only [hclip, Bool.false_eq_true, if_false, Option.some.injEq] at h h'
    have e := h.trans h'.symm
    simp only [Prod.mk.injEq, Fin.mk.injEq] at e
    omega
  · simp only [hclip, if_true] at h h'
    split at h
    · split at h'
      · simp only [Option.some.injEq] at h h'
        have e := h.trans h'.symm
        simp only [Prod.mk.injEq, Fin.mk.injEq] at e
        exact e
      · simp at h'
    · simp at h

/-- No pixel is visited twice (45_display R221(e)). -/
theorem nodup_spritePixels (x y : Reg) (n : Nat) (hn : n ≤ 32) : (spritePixels s x y n).Nodup := by
  unfold spritePixels
  rw [List.nodup_flatMap]
  refine ⟨fun r hr => ?_, ?_⟩
  · unfold List.Nodup
    rw [List.pairwise_filterMap]
    refine List.nodup_range.imp_of_mem fun {c c'} hc hc' hne p hp p' hp' => ?_
    simp only [Option.ite_none_right_eq_some] at hp hp'
    rintro rfl
    simp only [List.mem_range] at hr hc hc'
    refine hne ?_
    have := (target_injective s.cfg _ _ _ _ (drawOrigin s x y).1 (drawOrigin s x y).2 p (by omega) (by omega) hp.2 hp'.2).2
    omega
  · refine List.nodup_range.imp_of_mem fun {r r'} hr hr' hne => ?_
    simp only [List.mem_range] at hr hr'
    simp only [Function.onFun, List.disjoint_left, List.mem_filterMap, List.mem_range, Option.ite_none_right_eq_some]
    rintro p ⟨c, hc, -, hp⟩ ⟨c', hc', -, hp'⟩
    refine hne ?_
    have := (target_injective s.cfg _ _ _ _ (drawOrigin s x y).1 (drawOrigin s x y).2 p (by omega) (by omega) hp hp').1
    omega

end Sys2Proof.Machine
end

