-- ==== Sys2Proof/Laws/PerInstr.lean ====
section
/-! SUPPORT. Facts proved of every instruction, one lemma per constructor. `FixedBits`: the encoder gives an instruction the
fixed bits of its row of the opcode table (30_encoding R95: op & mask = match). -/

namespace Sys2Proof.Laws.FixedBits

def Statement (i : Instr) : Prop := encode i &&& rowMask i = rowMatch i

theorem and_15 (f : BitVec 4) : f &&& 15#4 = f := BitVec.and_allOnes

theorem and_255 (b : Byte) : b &&& 255#8 = b := BitVec.and_allOnes

theorem nnn_row (f : BitVec 4) (a : BitVec 12) : packNNN f a &&& 0xF000 = packNNN f 0 := by
  rw [show (0xF000 : Word) = packNNN 0xF 0 from by decide, packNNN_and]
  simp [packNNN, and_15]

theorem xkk_row (f : BitVec 4) (x : Reg) (kk : Byte) : packXKK f x kk &&& 0xF000 = packXKK f 0 0 := by
  rw [show (0xF000 : Word) = packXKK 0xF 0 0 from by decide, packXKK_and]
  simp [packXKK, and_15]

theorem x_row (f : BitVec 4) (x : Reg) (kk : Byte) : packXKK f x kk &&& 0xF0FF = packXKK f 0 kk := by
  rw [show (0xF0FF : Word) = packXKK 0xF 0 0xFF from by decide, packXKK_and]
  simp [packXKK, and_15, and_255]

theorem xy_row (f : BitVec 4) (x y : Reg) (n : BitVec 4) : packXYN f x y n &&& 0xF00F = packXYN f 0 0 n := by
  rw [show (0xF00F : Word) = packXYN 0xF 0 0 0xF from by decide, packXYN_and]
  simp [packXYN, and_15]

theorem xyn_row (f : BitVec 4) (x y : Reg) (n : BitVec 4) : packXYN f x y n &&& 0xF000 = packXYN f 0 0 0 := by
  rw [show (0xF000 : Word) = packXYN 0xF 0 0 0 from by decide, packXYN_and]
  simp [packXYN, and_15]

theorem cls : Statement .cls := rfl
theorem ret : Statement .ret := rfl
theorem jp (nnn : BitVec 12) : Statement (.jp nnn) := nnn_row 0x1 nnn
theorem call (nnn : BitVec 12) : Statement (.call nnn) := nnn_row 0x2 nnn
theorem seImm (x : Reg) (kk : Byte) : Statement (.seImm x kk) := xkk_row 0x3 x kk
theorem sneImm (x : Reg) (kk : Byte) : Statement (.sneImm x kk) := xkk_row 0x4 x kk
theorem seReg (x y : Reg) : Statement (.seReg x y) := xy_row 0x5 x y 0x0
theorem ldImm (x : Reg) (kk : Byte) : Statement (.ldImm x kk) := xkk_row 0x6 x kk
theorem addImm (x : Reg) (kk : Byte) : Statement (.addImm x kk) := xkk_row 0x7 x kk
theorem ldReg (x y : Reg) : Statement (.ldReg x y) := xy_row 0x8 x y 0x0
theorem orReg (x y : Reg) : Statement (.orReg x y) := xy_row 0x8 x y 0x1
theorem andReg (x y : Reg) : Statement (.andReg x y) := xy_row 0x8 x y 0x2
theorem xorReg (x y : Reg) : Statement (.xorReg x y) := xy_row 0x8 x y 0x3
theorem addReg (x y : Reg) : Statement (.addReg x y) := xy_row 0x8 x y 0x4
theorem subReg (x y : Reg) : Statement (.subReg x y) := xy_row 0x8 x y 0x5
theorem shrReg (x y : Reg) : Statement (.shrReg x y) := xy_row 0x8 x y 0x6
theorem subnReg (x y : Reg) : Statement (.subnReg x y) := xy_row 0x8 x y 0x7
theorem shlReg (x y : Reg) : Statement (.shlReg x y) := xy_row 0x8 x y 0xE
theorem sneReg (x y : Reg) : Statement (.sneReg x y) := xy_row 0x9 x y 0x0
theorem ldI (nnn : BitVec 12) : Statement (.ldI nnn) := nnn_row 0xA nnn
theorem jpOffset (nnn : BitVec 12) (x : Reg) : Statement (.jpOffset nnn x) := nnn_row 0xB nnn
theorem rnd (x : Reg) (kk : Byte) : Statement (.rnd x kk) := xkk_row 0xC x kk
theorem drw (x y : Reg) (n : BitVec 4) : Statement (.drw x y n) := xyn_row 0xD x y n
theorem skp (x : Reg) : Statement (.skp x) := x_row 0xE x 0x9E
theorem sknp (x : Reg) : Statement (.sknp x) := x_row 0xE x 0xA1
theorem ldVDt (x : Reg) : Statement (.ldVDt x) := x_row 0xF x 0x07
theorem ldVKey (x : Reg) : Statement (.ldVKey x) := x_row 0xF x 0x0A
theorem ldDtV (x : Reg) : Statement (.ldDtV x) := x_row 0xF x 0x15
theorem ldStV (x : Reg) : Statement (.ldStV x) := x_row 0xF x 0x18
theorem addIV (x : Reg) : Statement (.addIV x) := x_row 0xF x 0x1E
theorem ldFont (x : Reg) : Statement (.ldFont x) := x_row 0xF x 0x29
theorem ldBcd (x : Reg) : Statement (.ldBcd x) := x_row 0xF x 0x33
theorem storeRegs (x : Reg) : Statement (.storeRegs x) := x_row 0xF x 0x55
theorem loadRegs (x : Reg) : Statement (.loadRegs x) := x_row 0xF x 0x65

end Sys2Proof.Laws.FixedBits
end

