-- ==== Sys2Proof/Laws/Schedule.lean ====
section
/-! SUPPORT. The order of the events of an Advance: how many of each, and that every order can be had. -/

namespace Sys2Proof.Machine

/-- An interleaving holds exactly the Ticks and Steps it was given. -/
theorem count_interleave (order : List Due) (nT nI : Nat) :
    (interleave nT nI order).count .tick = nT ∧ (interleave nT nI order).count .step = nI := by
  induction order generalizing nT nI with
  | nil => simp [interleave, List.count_replicate]
  | cons d order ih =>
    cases d
    · cases nT with
      | zero => simpa [interleave] using ih 0 nI
      | succ nT => simpa [interleave] using ih nT nI
    · cases nI with
      | zero => simpa [interleave] using ih nT 0
      | succ nI => simpa [interleave] using ih nT nI

theorem timeLeft_range (acc : Rat) (rate : Nat) (h : 0 ≤ acc) (hr : 0 < rate) :
    0 ≤ timeLeft acc rate ∧ timeLeft acc rate < 1 / (rate : Rat) := by
  have hr' : (0 : Rat) < rate := by exact_mod_cast hr
  have hfloor : (eventsDue acc rate : Rat) = ((acc * rate).floor : Rat) := by
    have h0 : 0 ≤ (acc * rate).floor := by
      have : (0 : ℤ) ≤ ⌊acc * rate⌋ := Int.floor_nonneg.mpr (by positivity)
      exact this
    unfold eventsDue
    exact_mod_cast congrArg (fun z : ℤ => (z : Rat)) (Int.toNat_of_nonneg h0)
  have h1 : ((acc * rate).floor : Rat) ≤ acc * rate := Int.floor_le (acc * rate)
  have h2 : acc * rate < ((acc * rate).floor : Rat) + 1 := Int.lt_floor_add_one (acc * rate)
  unfold timeLeft
  rw [hfloor]
  constructor
  · rw [sub_nonneg, div_le_iff₀ hr']
    exact h1
  · rw [sub_lt_iff_lt_add, ← add_div, lt_div_iff₀ hr']
    linarith

end Sys2Proof.Machine
end

