-- ==== Sys2Proof/Laws/Step.lean ====
section
/-! SUPPORT. What a Step and an event can do, said once. -/

namespace Sys2Proof.Machine

/-- The four ways a Step ends (40_sequencer R120). -/
theorem stepInstr_cases {s t : State} (h : stepInstr s = .next t) :
    (s.halt = true ∧ t = s) ∨
    (s.halt = false ∧ s.canFetch = false ∧ t = s.raise .addressError 0x0000 s.pc) ∨
    (s.halt = false ∧ s.canFetch = true ∧ (∃ r, decode s.fetchWord = .error r) ∧
      t = s.fetched.raise .decodeError s.fetchWord s.pc) ∨
    (s.halt = false ∧ s.canFetch = true ∧ ∃ i, decode s.fetchWord = .ok i ∧ exec i s.fetched = .next t) := by
  unfold stepInstr at h
  cases hh : s.halt <;> simp only [hh, if_true, Bool.false_eq_true, if_false] at h
  · cases hf : s.canFetch <;> simp only [hf, if_true, Bool.false_eq_true, if_false] at h
    · cases h; simp
    · cases hd : decode s.fetchWord with
      | ok i => rw [hd] at h; simp only at h; exact .inr (.inr (.inr ⟨rfl, rfl, i, rfl, h⟩))
      | error r => rw [hd] at h; cases h; simp
  · cases h; simp

theorem stepInstr_halted {s : State} (h : s.halt = true) : stepInstr s = .next s := by
  simp [stepInstr, h]

theorem stepInstr_fetchFault {s : State} (h : s.halt = false) (hf : s.canFetch = false) :
    stepInstr s = .next (s.raise .addressError 0x0000 s.pc) := by
  simp [stepInstr, h, hf]

theorem stepInstr_error {s : State} {r : Reject} (h : s.halt = false) (hf : s.canFetch = true)
    (hd : decode s.fetchWord = .error r) : stepInstr s = .next (s.fetched.raise .decodeError s.fetchWord s.pc) := by
  simp [stepInstr, h, hf, hd]

theorem stepInstr_exec {s : State} {i : Instr} (h : s.halt = false) (hf : s.canFetch = true)
    (hd : decode s.fetchWord = .ok i) : stepInstr s = exec i s.fetched := by
  simp [stepInstr, h, hf, hd]

@[simp] theorem canFetch_iff (s : State) : s.canFetch = true ↔ s.pc.toNat ≤ 0x0FFE := by simp [State.canFetch]

@[simp] theorem canFetch_false_iff (s : State) : s.canFetch = false ↔ 0x0FFE < s.pc.toNat := by simp [State.canFetch]

/-- PC is restored by a stall: pc0 is the address the word was fetched from. -/
@[simp] theorem fetched_pc0 (s : State) : s.fetched.pc0 = s.pc := by simp [State.fetched, State.pc0]

/-! ### Which event is next (log 4) -/

theorem step_tickDue {s : State} {due : List Due} (h : s.due = .tick :: due) : step s = .next { s with due := due }.tick := by
  simp [step, nextEvent, h]

theorem step_stepDue {s : State} {due : List Due} (h : s.due = .step :: due) : step s = stepInstr { s with due := due } := by
  simp [step, nextEvent, h]

theorem step_hostCall {s : State} {call : HostCall} {inbox : List HostCall} (hd : s.due = []) (hi : s.inbox = call :: inbox) :
    step s = hostCall call { s with inbox := inbox } := by
  simp [step, nextEvent, hd, hi]

theorem step_idle {s : State} (hd : s.due = []) (hi : s.inbox = []) : step s = .next s := by
  simp [step, nextEvent, hd, hi]

/-- The events, in the order they are taken (log 4). -/
theorem step_cases {s t : State} (h : step s = .next t) :
    (∃ due, s.due = .tick :: due ∧ t = { s with due := due }.tick) ∨
    (∃ due, s.due = .step :: due ∧ stepInstr { s with due := due } = .next t) ∨
    (∃ call inbox, s.due = [] ∧ s.inbox = call :: inbox ∧ hostCall call { s with inbox := inbox } = .next t) ∨
    (s.due = [] ∧ s.inbox = [] ∧ t = s) := by
  unfold step nextEvent at h
  split at h
  · rename_i due hd; cases h; exact .inl ⟨due, hd, rfl⟩
  · rename_i due hd; exact .inr (.inl ⟨due, hd, h⟩)
  · rename_i call inbox hd hi; exact .inr (.inr (.inl ⟨call, inbox, hd, hi, h⟩))
  · rename_i hd hi; cases h; exact .inr (.inr (.inr ⟨hd, hi, rfl⟩))

/-- The ways a host transaction ends (47_host_interface). -/
theorem hostCall_cases {call : HostCall} {s t : State} (h : hostCall call s = .next t) :
    (call = .reset ∧ t = s.hostReset) ∨
    (∃ rom, call = .load rom ∧ t = s.afterLoad rom) ∨
    (∃ v, call = .setKeys v ∧ t = s.setKeys v) ∨
    (∃ e order, call = .advance e order ∧ 0 ≤ e ∧ t = s.advance e order) ∨
    (call = .readFramebuffer ∧ t = { s with dirty := false }) ∨
    (∃ bytes, call = .supplyRandom bytes ∧ t = s.supplyRandom bytes) := by
  cases call <;> simp only [hostCall] at h
  case advance e order =>
    split at h
    · cases h
    · cases h
      rename_i he
      simp [not_lt.mp he]
  all_goals cases h; simp [State.readFramebuffer]

/-- Load, by the length of the image (47_host_interface R260). -/
theorem afterLoad_cases (s : State) (rom : List Byte) :
    (rom.length ≤ romMax ∧ s.afterLoad rom = s.writeMem progBase rom) ∨ (romMax < rom.length ∧ s.afterLoad rom = s) := by
  unfold State.afterLoad State.load
  by_cases h : romMax < rom.length
  · simp [h]
  · simp [h]; omega

end Sys2Proof.Machine
end

