-- ==== Sys2Proof/Tests/Slice0.lean ====
section
/-! SUPPORT. The tests: the WellFormed smoke test, every constructor's word, small steps from the vectors of
95_test_vectors (the vector's id stands in the name or the comment), and a witness of the hypotheses of each obligation.
Every expected value is written out in spec/95_test_vectors or in the example of the rule named. -/

namespace Sys2Proof.Tests

open Sys2Proof Sys2Proof.Machine

/-! ## Well-formed terms -/

/-- The one check: x is the top of nnn (30_encoding R91). -/
theorem test_wellFormed_refuses_other_register : (Instr.jpOffset 0x2F0 3).wellFormed = false := by decide
theorem test_wellFormed_accepts_top_nibble : (Instr.jpOffset 0x2F0 2).wellFormed = true := by decide

/-! ## Decoding, every constructor, by words written out from 30_encoding R91 and R95 -/

theorem test_decode_fixed : decode 0b0000000011100000 = .ok .cls ∧ decode 0b0000000011101110 = .ok .ret := by decide
theorem test_decode_jumps : decode 0b0001001000110100 = .ok (.jp 0x234) ∧ decode 0b0010001100000000 = .ok (.call 0x300) ∧
    decode 0b1011001011110000 = .ok (.jpOffset 0x2F0 2) := by decide
theorem test_decode_skips : decode 0b0011000100000101 = .ok (.seImm 1 0x05) ∧ decode 0b0100000100000101 = .ok (.sneImm 1 0x05) ∧
    decode 0b0101000100100000 = .ok (.seReg 1 2) ∧ decode 0b1001000100100000 = .ok (.sneReg 1 2) := by decide
theorem test_decode_immediates : decode 0b0110000100000101 = .ok (.ldImm 1 0x05) ∧
    decode 0b0111000100000101 = .ok (.addImm 1 0x05) ∧ decode 0b1100000100001111 = .ok (.rnd 1 0x0F) := by decide
theorem test_decode_registers : decode 0b1000000100100000 = .ok (.ldReg 1 2) ∧ decode 0b1000000100100001 = .ok (.orReg 1 2) ∧
    decode 0b1000000100100010 = .ok (.andReg 1 2) ∧ decode 0b1000000100100011 = .ok (.xorReg 1 2) ∧
    decode 0b1000000100100100 = .ok (.addReg 1 2) ∧ decode 0b1000000100100101 = .ok (.subReg 1 2) ∧
    decode 0b1000000100100110 = .ok (.shrReg 1 2) ∧ decode 0b1000000100100111 = .ok (.subnReg 1 2) ∧
    decode 0b1000000100101110 = .ok (.shlReg 1 2) := by decide
theorem test_decode_index : decode 0b1010001011110000 = .ok (.ldI 0x2F0) ∧ decode 0b1111000100011110 = .ok (.addIV 1) ∧
    decode 0b1111000100101001 = .ok (.ldFont 1) ∧ decode 0b1111000100110011 = .ok (.ldBcd 1) ∧
    decode 0b1111001001010101 = .ok (.storeRegs 2) ∧ decode 0b1111000101100101 = .ok (.loadRegs 1) := by decide
theorem test_decode_draw : decode 0b1101000000010101 = .ok (.drw 0 1 5) := by decide
theorem test_decode_keys_timers : decode 0b1110000110011110 = .ok (.skp 1) ∧ decode 0b1110000110100001 = .ok (.sknp 1) ∧
    decode 0b1111000100000111 = .ok (.ldVDt 1) ∧ decode 0b1111001100001010 = .ok (.ldVKey 3) ∧
    decode 0b1111000100010101 = .ok (.ldDtV 1) ∧ decode 0b1111000100011000 = .ok (.ldStV 1) := by decide
/-- T41.24, T43.20, T46.22 to T46.24, T60.1, T60.8 to T60.10, and the extension words of R98. -/
theorem test_decode_illegal : decode 0x5121 = .error .skipEqual ∧ decode 0x9121 = .error .skipDiffer ∧
    decode 0x8128 = .error .registerOp ∧ decode 0xE19F = .error .keyTest ∧ decode 0xF130 = .error .miscOp ∧
    decode 0x0000 = .error .machineCall ∧ decode 0x00E1 = .error .machineCall ∧ decode 0x00FF = .error .machineCall ∧
    decode 0xF000 = .error .miscOp := by decide
theorem test_decodeBytes : decodeBytes [0x61, 0x05, 0xAA] = .ok (.ldImm 1 0x05, [0xAA]) ∧
    decodeBytes [0x61] = .error .truncated := by decide

/-! ## Start states -/

/-- The reset state with configuration `c` and V registers as listed. -/
def start (c : Config) (vs : List (Reg × Byte)) : State := vs.foldl (fun s p => s.setV p.1 p.2) (State.resetWith c)

/-- The same with the reference configuration. -/
def ref (vs : List (Reg × Byte)) : State := start referenceConfig vs

/-- `q` of the state after one Step with `op` at PC. -/
def after {α : Type} (op : Word) (s : State) (q : State → α) : Option α :=
  match stepInstr (s.placeWord op) with
  | .next t => some (q t)
  | _ => none

/-- PC and the registers listed. -/
def pcAnd (rs : List Reg) (t : State) : Word × List Byte := (t.pc, rs.map t.getV)

/-- The `n` bytes from `a`. -/
def bytes (a n : Nat) (t : State) : List Byte := (List.range n).map fun k => t.readMem (a + k)

/-- The lit columns of a row. -/
def lit (row : Fin 32) (t : State) : List (Fin 64) := (List.finRange 64).filter fun col => pixelOf t.fb row col

/-! ## Control transfer (T41) -/

theorem test_T41_1_jp : after 0x1234 (ref []) State.pc = some 0x0234 := by decide
theorem test_T41_5_call : after 0x2300 { ref [] with sp := 15 } (fun t => (t.pc, t.sp, t.stack[15])) = some (0x0300, 16, 0x0202) := by decide
theorem test_T41_6_call_overflow : after 0x2300 { ref [] with sp := 16 } (fun t => (t.pc, t.sp, t.halt, t.err)) =
    some (0x0202, 16, true, some ⟨.stackOverflow, 0x2300, 0x0200⟩) := by decide
theorem test_T41_7_ret : after 0x00EE { ref [] with pc := 0x0300, sp := 1, stack := (ref []).stack.set 0 0x0202 }
    (fun t => (t.pc, t.sp)) = some (0x0202, 0) := by decide
theorem test_T41_9_ret_underflow : after 0x00EE (ref []) (fun t => (t.pc, t.sp, t.halt, t.err)) =
    some (0x0202, 0, true, some ⟨.stackUnderflow, 0x00EE, 0x0200⟩) := by decide
theorem test_T41_10_jump_v0 : after 0xB300 (start { referenceConfig with jumpV0 := true } [(0, 0x04), (3, 0x10)]) State.pc =
    some 0x0304 := by decide
theorem test_T41_12_jump_vx : after 0xB2F0 (ref [(0, 0x01), (2, 0x0E)]) State.pc = some 0x02FE := by decide
theorem test_T41_14_se : after 0x3105 (ref [(1, 0x05)]) State.pc = some 0x0204 := by decide
theorem test_T41_15_se_not_taken : after 0x3105 (ref [(1, 0x06)]) State.pc = some 0x0202 := by decide
theorem test_T41_17_sne_not_taken : after 0x4105 (ref [(1, 0x05)]) State.pc = some 0x0202 := by decide
theorem test_T41_18_sne : after 0x4105 (ref [(1, 0x06)]) State.pc = some 0x0204 := by decide
theorem test_T41_19_se_reg : after 0x5120 (ref [(1, 0x7F), (2, 0x7F)]) State.pc = some 0x0204 := by decide
theorem test_T41_20_se_reg_not_taken : after 0x5120 (ref [(1, 0x7F), (2, 0x7E)]) State.pc = some 0x0202 := by decide
theorem test_T41_22_sne_reg : after 0x9120 (ref [(1, 0x01), (2, 0x02)]) State.pc = some 0x0204 := by decide
theorem test_T41_23_sne_reg_not_taken : after 0x9120 (ref [(1, 0x02), (2, 0x02)]) State.pc = some 0x0202 := by decide

/-! ## Load and arithmetic (T42) -/

theorem test_T42_2_ld : after 0x6FFF (ref []) (pcAnd [15]) = some (0x0202, [0xFF]) := by decide
theorem test_T42_4_add_imm_no_flag : after 0x7101 (ref [(1, 0xFF)]) (pcAnd [1, 15]) = some (0x0202, [0x00, 0x00]) := by decide
theorem test_T42_6_copy : after 0x8120 (ref [(2, 0x9C)]) (pcAnd [1, 2]) = some (0x0202, [0x9C, 0x9C]) := by decide
theorem test_T42_10_add : after 0x8124 (ref [(1, 0x80), (2, 0x7F), (15, 0x01)]) (pcAnd [1, 15]) = some (0x0202, [0xFF, 0x00]) := by decide
theorem test_T42_12_add_to_VF : after 0x8F14 (ref [(1, 0x20), (15, 0xF0)]) (pcAnd [15]) = some (0x0202, [0x01]) := by decide
theorem test_T42_16_sub_borrow : after 0x8125 (ref [(1, 0x10), (2, 0x20)]) (pcAnd [1, 15]) = some (0x0202, [0xF0, 0x00]) := by decide
theorem test_T42_18_sub_equal : after 0x8125 (ref [(1, 0x33), (2, 0x33)]) (pcAnd [1, 15]) = some (0x0202, [0x00, 0x01]) := by decide
theorem test_T42_24_subn_borrow : after 0x8127 (ref [(1, 0x20), (2, 0x10)]) (pcAnd [1, 2, 15]) = some (0x0202, [0xF0, 0x10, 0x00]) := by decide
theorem test_T42_26_subn_to_VF : after 0x8F17 (ref [(1, 0x03), (15, 0x05)]) (pcAnd [15]) = some (0x0202, [0x00]) := by decide

/-! ## Logic and shifts (T43) -/

theorem test_T43_8_or_keeps : after 0x8F11 (ref [(1, 0x80), (15, 0x01)]) (pcAnd [15]) = some (0x0202, [0x81]) := by decide
theorem test_T43_2_or_reset : after 0x8121 (start { referenceConfig with vfReset := true } [(1, 0x0F), (2, 0xF0), (15, 0x01)])
    (pcAnd [1, 15]) = some (0x0202, [0xFF, 0x00]) := by decide
theorem test_T43_3_and : after 0x8122 (ref [(1, 0x3C), (2, 0x0F), (15, 0x01)]) (pcAnd [1, 15]) = some (0x0202, [0x0C, 0x01]) := by decide
theorem test_T43_10_and_VF_operand : after 0x81F2 (start { referenceConfig with vfReset := true } [(1, 0xFF), (15, 0x0F)])
    (pcAnd [1, 15]) = some (0x0202, [0x0F, 0x00]) := by decide
theorem test_T43_5_xor : after 0x8123 (ref [(1, 0xFF), (2, 0x0F), (15, 0x01)]) (pcAnd [1, 15]) = some (0x0202, [0xF0, 0x01]) := by decide
theorem test_T43_11_shr_in_place : after 0x8126 (ref [(1, 0x05), (2, 0x08)]) (pcAnd [1, 2, 15]) = some (0x0202, [0x02, 0x08, 0x01]) := by decide
theorem test_T43_15_shr_VF_source : after 0x81F6 (start { referenceConfig with shiftVy := true } [(1, 0x10), (15, 0x06)])
    (pcAnd [1, 15]) = some (0x0202, [0x03, 0x00]) := by decide
theorem test_T43_16_shl_in_place : after 0x812E (ref [(1, 0x81), (2, 0x40)]) (pcAnd [1, 15]) = some (0x0202, [0x02, 0x01]) := by decide
theorem test_T43_17_shl_from_Vy : after 0x812E (start { referenceConfig with shiftVy := true } [(1, 0x81), (2, 0x40), (15, 0x01)])
    (pcAnd [1, 15]) = some (0x0202, [0x80, 0x00]) := by decide

/-! ## Index register and memory (T44) -/

theorem test_T44_2_ldI : after 0xAFFF (ref []) (fun t => (t.pc, t.i)) = some (0x0202, 0x0FFF) := by decide
theorem test_T44_4_addIV_mask : after 0xF11E { ref [(1, 0x20)] with i := 0x0FF0 } (fun t => (t.i, t.getV 15)) = some (0x0010, 0x00) := by decide
theorem test_T44_5_addIV_saturate : after 0xF11E { start { referenceConfig with iOvf := .saturate } [(1, 0x20)] with i := 0x0FF0 }
    (fun t => (t.i, t.getV 15)) = some (0x0FFF, 0x00) := by decide
theorem test_T44_9_font_low_nibble : after 0xF129 (ref [(1, 0x1F)]) State.i = some 0x004B := by decide
theorem test_T44_10_font_base : after 0xF129 (start { referenceConfig with fontBase := 0x050 } [(1, 0x05)]) State.i = some 0x0069 := by decide
theorem test_T44_12_bcd : after 0xF133 { ref [(1, 0x9C)] with i := 0x0300 } (bytes 0x300 3) = some [0x01, 0x05, 0x06] := by decide
theorem test_T44_16_bcd_fault : after 0xF133 { ref [(1, 0x64)] with i := 0x0FFE } (fun t => (t.pc, t.halt, t.err, bytes 0xFFE 2 t)) =
    some (0x0202, true, some ⟨.addressError, 0xF133, 0x0200⟩, [0x00, 0x00]) := by decide
theorem test_T44_18_store : after 0xF255
    { start { referenceConfig with memIncr := true } [(0, 0x11), (1, 0x22), (2, 0x33), (3, 0x44)] with i := 0x0400 }
    (fun t => (t.i, bytes 0x400 4 t)) = some (0x0403, [0x11, 0x22, 0x33, 0x00]) := by decide
theorem test_T44_21_store_fault : after 0xF255 { start { referenceConfig with memIncr := true } [(0, 0x11)] with i := 0x0FFE }
    (fun t => (t.i, t.err, bytes 0xFFE 2 t)) = some (0x0FFE, some ⟨.addressError, 0xF255, 0x0200⟩, [0x00, 0x00]) := by decide
/-- T44.25: the font is read, and I is not advanced. -/
theorem test_T44_25_load_font : after 0xFF65 (ref []) (fun t => (t.i, allRegs.map t.getV)) =
    some (0x0000, [0xF0, 0x90, 0x90, 0x90, 0xF0, 0x20, 0x60, 0x20, 0x20, 0x70, 0xF0, 0x10, 0xF0, 0x80, 0xF0, 0xF0]) := by decide
theorem test_T44_26_load_fault : after 0xF165 { ref [(0, 0x01), (1, 0x02)] with i := 0x0FFF } (fun t => (t.getV 0, t.getV 1, t.err)) =
    some (0x01, 0x02, some ⟨.addressError, 0xF165, 0x0200⟩) := by decide

/-! ## Display (T45) -/

/-- A blank display with the pixels listed lit. -/
def fbWith (ps : List (Fin 32 × Fin 64)) : Framebuffer := ps.foldl (fun fb p => withPixel fb p.1 p.2 true) blankDisplay

theorem test_T45_1_cls : after 0x00E0 { ref [(15, 0x01)] with fb := fbWith [(7, 3), (31, 63)] }
    (fun t => (t.fb, t.dirty, t.getV 15)) = some (blankDisplay, true, 0x01) := by decide +kernel
/-- T45.5, wrap at both edges. -/
theorem test_T45_5_draw_wraps : after 0xD122 { (ref [(1, 0x3E), (2, 0x1F)]).writeMem 0x300 [0xFF, 0xFF] with i := 0x0300 }
    (fun t => (lit 0 t, lit 31 t, t.getV 15, t.dirty)) =
    some ([0, 1, 2, 3, 4, 5, 62, 63], [0, 1, 2, 3, 4, 5, 62, 63], 0x00, true) := by decide +kernel
/-- T45.9, collision: (0,1) is erased and (0,0) lit. -/
theorem test_T45_9_draw_collides : after 0xD121 { (ref []).writeMem 0x300 [0xC0] with i := 0x0300, fb := fbWith [(0, 1), (0, 2)] }
    (fun t => (lit 0 t, t.getV 15)) = some ([0, 2], 0x01) := by decide +kernel

/-! ## Random, timers, keys (T46) -/

theorem test_T46_1_rnd : after 0xC10F { ref [] with rndIn := [0xA7] } (fun t => (t.getV 1, t.rndIn, t.rndDrawn)) = some (0x07, [], 1) := by decide
theorem test_T46_5_read_DT : after 0xF107 { ref [] with dt := 0x2A } (pcAnd [1]) = some (0x0202, [0x2A]) := by decide
theorem test_T46_6_write_DT : after 0xF115 (ref [(1, 0x3C)]) State.dt = some 0x3C := by decide
theorem test_T46_7_write_ST : after 0xF118 (ref [(1, 0x05)]) (fun t => (t.st, t.beeping)) = some (0x05, true) := by decide
theorem test_T46_11_skp_low_nibble : after 0xE19E { ref [(1, 0x1A)] with keys := 0x0400 } State.pc = some 0x0204 := by decide
theorem test_T46_10_skp_not_taken : after 0xE19E { ref [(1, 0x0A)] with keys := 0xFBFF } State.pc = some 0x0202 := by decide
theorem test_T46_12_sknp : after 0xE1A1 (ref [(1, 0x0A)]) State.pc = some 0x0204 := by decide
theorem test_T46_14_sknp_low_nibble : after 0xE1A1 { ref [(1, 0xF0)] with keys := 0x0001 } State.pc = some 0x0202 := by decide
theorem test_T46_16_key_wait_arms : after 0xF30A { ref [] with keys := 0x0080 } (fun t => (t.pc, t.wait, t.kprev, t.getV 3)) =
    some (0x0200, true, 0x0080, 0x00) := by decide
theorem test_T46_20_key_wait_least : after 0xF30A { ref [] with keys := 0x8108, wait := true, kprev := 0x0100 }
    (fun t => (t.pc, t.wait, t.kprev, t.getV 3)) = some (0x0202, false, 0x8108, 0x03) := by decide

/-! ## The Step, Ticks and Advance (T60, T61) -/

theorem test_T60_1_decode_error : after 0x0000 (ref []) (fun t => (t.pc, t.halt, t.err)) =
    some (0x0202, false, some ⟨.decodeError, 0x0000, 0x0200⟩) := by decide
theorem test_T60_7_fetch_fault : stepInstr { ref [] with pc := 0x0FFF } =
    .next { ref [] with pc := 0x0FFF, halt := true, err := some ⟨.addressError, 0x0000, 0x0FFF⟩ } := rfl
/-- T41.28: an odd PC. -/
theorem test_T41_28_odd_pc : after 0x6105 { ref [] with pc := 0x0201 } (pcAnd [1]) = some (0x0203, [0x05]) := by decide
theorem test_T61_3_tick_while_halted : step { ref [] with dt := 0xFF, halt := true, due := [.tick] } =
    .next { ref [] with dt := 0xFE, halt := true, vbl := true } := rfl
/-- T61.6, its second call: 1/100 s again from ACC_T = 1/100, RATE = 600: one Tick and six Steps, 1/300 s left. -/
theorem test_T61_6_advance : (let t := State.advance { ref [] with accT := 1 / 100 } (1 / 100) []
    (t.accT, t.accI, t.due)) = (1 / 300, 0, .tick :: List.replicate 6 .step) := by decide +kernel

/-- 47_host_interface R268, row stop: a machine whose host does nothing stays as it is. -/
theorem test_R268_stop : step (ref [(1, 0x3C)]) = .next (ref [(1, 0x3C)]) := rfl
/-- 60_exceptions R300: RATE = 600, so an Advance by 1/600 s makes exactly one Step due, which then is the next event. -/
theorem test_R268_time : (match step { ref [] with inbox := [.advance (1 / 600) []] } with
    | .next t => some (t.due, t.inbox, t.pc)
    | _ => none) = some ([.step], [], 0x0200) := by decide +kernel

/-! ## The host's questions -/

theorem test_decodeTableWord : decodeTableWord 16 0xD015 = some (.drw 0 1 5) ∧ decodeTableWord 16 0x0000 = none := by decide
/-- R95's 6105 runs as the first instruction after reset. -/
theorem test_withFetchWord : (match step (State.reset.withFetchWord 16 0x6105) with
    | .next t => some (t.pc, t.getV 1)
    | _ => none) = some (0x0202, 0x05) := by decide

/-! ## Witnesses: states and operands that meet the hypotheses of the obligations, clause by clause -/

/-- A configuration with every quirk on, at the boundary of validity: the font ends at 0x200, RATE = 1. -/
def edgeConfig : Config := ⟨true, true, true, true, true, true, 1, .halt, 0x1B0, referenceFont, .saturate⟩

/-- A machine whose PC is at the last address that can be fetched from, with `op` there. -/
def edge (op : Word) (s : State) : State := { s with pc := 0x0FFE }.placeWord op

theorem witness_EncodeThenDecode : (Instr.jpOffset 0xFFF 15).wellFormed = true ∧ (Instr.loadRegs 15).wellFormed = true := by decide
theorem witness_DecodeThenEncode : decode 0xBFFF = .ok (.jpOffset 0xFFF 15) ∧ decode 0xFF65 = .ok (.loadRegs 15) := by decide
theorem witness_WordIsInstructionByMaskAndMatch :
    decode 0x8FFE = .ok (.shlReg 15 15) ∧ (0x8FFE : Word) &&& rowMask (.shlReg 0 0) = rowMatch (.shlReg 0 0) := by decide
/-- The words at the edges of rows of the table; legal neighbours of them stand in the decode tests above. -/
theorem witness_IllegalWordsAreThoseOfTheTable : decode 0x0FFF = .error .machineCall ∧ decode 0x5FFF = .error .skipEqual ∧
    decode 0x8FF8 = .error .registerOp ∧ decode 0x8FFD = .error .registerOp ∧ decode 0x8FFF = .error .registerOp ∧
    decode 0x9FF1 = .error .skipDiffer ∧ decode 0xEF9D = .error .keyTest ∧ decode 0xEFA2 = .error .keyTest ∧
    decode 0xFF06 = .error .miscOp ∧ decode 0xFF66 = .error .miscOp := by decide
/-- A due Step that decodes, a due Tick with a transaction waiting, a transaction with nothing due, and no event at all. -/
theorem witness_StepExecutesDecodedInstruction : (let s := edge 0x1200 (ref [])
    s.halt = false ∧ s.pc.toNat ≤ 0x0FFE ∧ s.due = .step :: [] ∧
      decode (wordOfBytes (s.readMem s.pc.toNat) (s.readMem (s.pc.toNat + 1))) = .ok (.jp 0x200)) ∧
    (let s := { ref [] with due := [.tick, .step], inbox := [.reset] }
    s.due = .tick :: [.step]) ∧
    (let s := { ref [] with inbox := [.setKeys 0x8000, .reset] }
    s.due = [] ∧ s.inbox = .setKeys 0x8000 :: [.reset]) ∧
    (ref []).due = [] ∧ (ref []).inbox = [] := by decide
theorem witness_HaltedStepsDoNothingUntilReset :
    step { ref [] with halt := true, inbox := [.reset] } = .next (ref []) ∧ (ref []).halt = false := ⟨rfl, rfl⟩
theorem witness_FetchOutsideMemoryRaises : (let s := { ref [] with pc := 0x0FFF }
    s.halt = false ∧ 0x0FFE < s.pc.toNat) := by decide
theorem witness_IllegalWordRaisesDecodeError : (let s := edge 0x5121 (ref [])
    s.halt = false ∧ s.pc.toNat ≤ 0x0FFE ∧ s.cfg.onInvalid = .skip ∧
      decode (wordOfBytes (s.readMem s.pc.toNat) (s.readMem (s.pc.toNat + 1))) = .error .skipEqual) ∧
    (let s := edge 0xE000 (start edgeConfig [])
    s.halt = false ∧ s.pc.toNat ≤ 0x0FFE ∧ s.cfg.onInvalid = .halt ∧
      decode (wordOfBytes (s.readMem s.pc.toNat) (s.readMem (s.pc.toNat + 1))) = .error .keyTest) := by decide
/-- A recoverable error, a fatal one of an instruction, and a fetch fault. -/
theorem witness_ExceptionsArePrecise :
    after 0x0000 (ref []) (fun t => decide (t.err ≠ none ∧ t.halt = false)) = some true ∧
    after 0x00EE (ref []) State.halt = some true ∧
    (match stepInstr { ref [] with pc := 0x0FFF } with
      | .next t => some (t.halt, t.pc)
      | _ => none) = some (true, 0x0FFF) := by decide
theorem witness_OnlyNegativeTimeIsRefused :
    step { ref [] with inbox := [.advance (-1) []] } = .refused .negativeElapsed := rfl

theorem witness_ResetMeetsTheInvariants : ConfigValid referenceConfig ∧ ConfigValid edgeConfig := by decide
/-- The reset state with a Step due meets the invariants, and the Step runs (0x0000 at 0x200 is illegal: R97). -/
theorem witness_EveryEventKeepsTheInvariants : Inv { State.reset with due := [.step] } ∧
    ∃ t, step { State.reset with due := [.step] } = .next t ∧ t.pc = 0x0202 :=
  ⟨{ config := by decide
     memory := by decide
     index := by decide
     counter := by decide
     returns := by decide
     halted := by decide
     ticks := by decide +kernel
     steps := by decide +kernel }, _, rfl, rfl⟩
theorem witness_ConfigurationNeverChanges : ∃ t, step { start edgeConfig [] with inbox := [.reset] } = .next t := ⟨_, rfl⟩
/-- A waiting machine at its Fx0A, by itself, with its Step due, and with a Reset as the next event. -/
theorem witness_WaitingMachineStandsAtKeyWait :
    (let s := { edge 0xF30A (ref []) with wait := true }
    s.wait = true ∧ s.canFetch = true ∧ decode s.fetchWord = .ok (.ldVKey 3)) ∧
    (∃ t, stepInstr { edge 0xF30A (ref []) with wait := true } = .next t ∧ t.wait = true) ∧
    (∃ t, step { edge 0xF30A (ref []) with wait := true } = .next t ∧ t.wait = true) ∧
    (∃ t, step { edge 0xF30A (ref []) with wait := true, due := [], inbox := [.reset] } = .next t ∧ t.wait = false) ∧
    (∀ rom, ¬CallIsNext (edge 0xF30A (ref [])) (.load rom)) ∧
    ∀ rom, ¬CallIsNext { edge 0xF30A (ref []) with due := [], inbox := [.reset] } (.load rom) := by
  refine ⟨by decide, ⟨_, rfl, rfl⟩, ⟨_, rfl, rfl⟩, ⟨_, rfl, rfl⟩, ?_, ?_⟩
  · rintro rom ⟨h, -⟩
    cases h
  · rintro rom ⟨-, rest, h⟩
    cases h
/-- A step of each kind the statement distinguishes: Fx15, a Tick, Reset, and a Tick with a Reset waiting behind it. -/
theorem witness_TimersChangeOnlyByTheirWriters :
    (∃ t, step (edge 0xF115 (ref [(1, 0x3C)])) = .next t ∧ t.dt = 0x3C) ∧
    (∃ t, step { ref [] with st := 0x05, due := [.tick] } = .next t ∧ t.st = 0x04) ∧
    (∃ t, step { ref [] with dt := 0x05, inbox := [.reset] } = .next t ∧ t.dt = 0x00) ∧
    (∃ t, step { ref [] with dt := 0x05, due := [.tick], inbox := [.reset] } = .next t ∧ t.dt = 0x04) :=
  ⟨⟨_, rfl, rfl⟩, ⟨_, rfl, rfl⟩, ⟨_, rfl, rfl⟩, ⟨_, rfl, rfl⟩⟩
theorem witness_KeysAreConstantDuringAnAdvance :
    { ref [] with keys := 0x0080, due := [.step], inbox := [.setKeys 0] }.due ≠ [] ∧
    ∃ t, step { ref [] with keys := 0x0080, due := [.step], inbox := [.setKeys 0] } = .next t := ⟨by decide, _, rfl⟩

theorem witness_OnlyRandomReadsTheRandomSource : ∀ (x : Reg) (kk : Byte), Instr.drw 0 1 5 ≠ .rnd x kk := by simp
/-- A stack that differs in its dead entries only. -/
theorem witness_DeadStackEntriesAreNeverRead :
    (∀ k : Fin 16, k.val < { ref [] with sp := 15 }.sp.val → ((ref []).stack.set 15 0x0ABC)[k] = (ref []).stack[k]) ∧
    ((ref []).stack.set 15 0x0ABC)[15] ≠ (ref []).stack[15] := by decide
/-- A draw that toggles nothing (T45.10), and a Reset. -/
theorem witness_CleanDisplayIsUnchanged :
    (∃ t, step ({ ref [] with i := 0x0300 }.withFetchWord 16 0xD121) = .next t ∧ t.dirty = false) ∧
    (∃ t, step { ref [] with dirty := true, inbox := [.reset] } = .next t ∧ t.dirty = false) := ⟨⟨_, rfl, by decide⟩, ⟨_, rfl, rfl⟩⟩
theorem witness_CallPushesOrOverflows : { ref [] with sp := 15 }.sp.val < 16 ∧ { ref [] with sp := 16 }.sp.val = 16 := by decide
theorem witness_ReturnPopsOrUnderflows : 0 < { ref [] with sp := 1 }.sp.val ∧ (ref []).sp.val = 0 := by decide
/-- Both operand choices of Bnnn. -/
theorem witness_JumpOffsetAddsTheChosenRegister : edgeConfig.jumpV0 = true ∧ referenceConfig.jumpV0 = false := by decide
theorem witness_CallThenReturnRoundTrip : (let s := edge 0x2300 ({ ref [] with sp := 15 }.writeMem 0x300 [0x00, 0xEE])
    s.halt = false ∧ s.pc.toNat ≤ 0x0FFE ∧ (0x300 : BitVec 12).toNat ≤ 0x0FFE ∧ s.sp.val < 16 ∧
      decode (s.readWord s.pc.toNat) = .ok (.call 0x300) ∧ decode (s.readWord (0x300 : BitVec 12).toNat) = .ok .ret) := by decide
theorem witness_LogicOperations : edgeConfig.vfReset = true ∧ ¬(referenceConfig.vfReset = true ∧ VF = VF) := by decide
theorem witness_ShiftsMoveTheOutgoingBitToVF : ((0xFF : Byte).toNat = if edgeConfig.shiftVy
    then ((start edgeConfig [(2, 0xFF)]).getV 2).toNat else ((start edgeConfig [(2, 0xFF)]).getV 1).toNat) ∧
    (1 : Reg) ≠ VF := by decide

theorem witness_FontAddressOfLowNibble : ConfigValid (start edgeConfig [(1, 0xFF)]).cfg := by decide
theorem witness_BcdStoresThreeDigits : Memory.wf referenceConfig (ref []).mem ∧ { ref [] with i := 0x0FFD }.i.toNat + 2 ≤ 0xFFF ∧
    0xFFF < { ref [] with i := 0x0FFE }.i.toNat + 2 := by decide
theorem witness_BlockStoreWritesV0ToVx : Memory.wf edgeConfig (start edgeConfig []).mem ∧
    { start edgeConfig [] with i := 0x0FF0 }.i.toNat + (15 : Reg).val ≤ 0xFFF ∧
    0xFFF < { start edgeConfig [] with i := 0x0FF1 }.i.toNat + (15 : Reg).val := by decide
theorem witness_BlockLoadReadsV0ToVx : { ref [] with i := 0x0FFF }.i.toNat + (0 : Reg).val ≤ 0xFFF ∧
    0xFFF < { ref [] with i := 0x0FFF }.i.toNat + (1 : Reg).val := by decide
theorem witness_IndexWritesAreWrapped : referenceConfig.iOvf = .mask ∧ edgeConfig.iOvf = .saturate := by decide
theorem witness_FetchSeesStoresAtOnce : (let s := { ref [] with i := 0x0FF0 }
    Memory.wf s.cfg s.mem ∧ s.i.toNat + (15 : Reg).val ≤ 0xFFF) ∧ (14 : Reg) ≤ 15 ∧ (15 : Reg) ≤ 15 ∧ (15 : Reg).val = (14 : Reg).val + 1 := by
  decide

/-- A draw that goes on and reads the last byte of memory; one of no rows; one that faults; one that waits. -/
theorem witness_DrawTogglesTheCoveredPixels :
    (DrawReady { start edgeConfig [] with vbl := true, i := 0x0FF1 } ∧
      SpriteInMemory { start edgeConfig [] with vbl := true, i := 0x0FF1 } 15) ∧
    (DrawReady { ref [] with i := 0x0FFF } ∧ SpriteInMemory { ref [] with i := 0x0FFF } 0) ∧
    (DrawReady { ref [] with i := 0x0FF2 } ∧ ¬SpriteInMemory { ref [] with i := 0x0FF2 } 15) ∧
    ¬DrawReady (start edgeConfig []) := by
  unfold DrawReady SpriteInMemory
  decide
/-- A draw that goes on under Q.disp_wait, one that stalls, and the Tick that turns VBL to 1. -/
theorem witness_DrawsAreSeparatedByTicks : (let s := { start edgeConfig [] with vbl := true, i := 0x0FF1 }
    s.cfg.dispWait = true ∧ s.vbl = true ∧ SpriteInMemory s 15) ∧
    (start edgeConfig []).cfg.dispWait = true ∧ (start edgeConfig []).vbl = false ∧
    ∃ t, step { start edgeConfig [] with due := [.tick] } = .next t ∧ t.vbl = true := by
  unfold SpriteInMemory
  exact ⟨by decide, rfl, rfl, _, rfl, rfl⟩
theorem witness_DrawTwiceRestoresTheDisplay : (let s := { start edgeConfig [] with vbl := true, i := 0x0FF1 }
    (14 : Reg) ≠ VF ∧ (0 : Reg) ≠ VF ∧ DrawReady s ∧ SpriteInMemory s 15) := by
  unfold DrawReady SpriteInMemory
  decide

/-- A byte at the port, and none. -/
theorem witness_RandomByteAndMask : { ref [] with rndIn := [0xA7] }.rndIn = 0xA7 :: [] ∧ (ref []).rndIn = [] := by decide
/-- Not armed with a key held; armed with it held; armed with the last key newly down beside a held one. -/
theorem witness_KeyWaitTakesTheLeastNewKey :
    { ref [] with keys := 0x0080 }.wait = false ∧
    (let s := { ref [] with keys := 0x0080, kprev := 0x0080, wait := true }
    s.wait = true ∧ ∀ k : Reg, s.keys.getLsbD k.val = true → s.kprev.getLsbD k.val = true) ∧
    (let s := { ref [] with keys := 0x8100, kprev := 0x0100, wait := true }
    s.wait = true ∧ s.keys.getLsbD (15 : Reg).val = true ∧ s.kprev.getLsbD (15 : Reg).val = false ∧
      ∀ j : Reg, j < 15 → s.keys.getLsbD j.val = true → s.kprev.getLsbD j.val = true) := by decide
theorem witness_TickDecrementsBothTimers : { ref [] with dt := 0x05, st := 0x01, halt := true, due := [.tick] }.due = .tick :: [] := by decide
theorem witness_BeepFollowsTheSoundTimer : { ref [] with st := 1 }.st = 1 := by decide
/-- An address below a font that does not start at 0, the last above it, and both bounds themselves. -/
theorem witness_ResetState : (0x1AF < edgeConfig.fontBase ∨ edgeConfig.fontBase + 80 ≤ 0x1AF) ∧
    (0x200 < edgeConfig.fontBase ∨ edgeConfig.fontBase + 80 ≤ 0x200) ∧
    (State.resetWith edgeConfig).readMem 0x1AF = 0 ∧ (State.resetWith edgeConfig).readMem 0x1B0 = 0xF0 ∧
    (State.resetWith edgeConfig).readMem 0x1FF = 0x80 ∧ (State.resetWith edgeConfig).readMem 0x200 = 0 := by decide
theorem witness_ConstructionRejectsInvalidConfigurations :
    (0 < edgeConfig.rate ∧ edgeConfig.fontBase + 80 ≤ 0x200) ∧
    (let c := { edgeConfig with rate := 0 }
    ¬(0 < c.rate ∧ c.fontBase + 80 ≤ 0x200)) ∧
    (let c := { edgeConfig with fontBase := 0x1B1 }
    ¬(0 < c.rate ∧ c.fontBase + 80 ≤ 0x200)) := by decide
theorem witness_LoadCopiesTheImageOrFails : Memory.wf referenceConfig (ref []).mem ∧ (List.replicate 3584 (0xAA : Byte)).length ≤ 3584 ∧
    3584 < (List.replicate 3585 (0xAA : Byte)).length := by
  rw [List.length_replicate, List.length_replicate]
  decide
theorem witness_AdvanceClearsErrorUnlessHalted : (0 : Rat) ≤ 0 ∧ (0 : Rat) ≤ 1 / 60 := by decide +kernel
theorem witness_NoTickOrStepIsLostOrCountedTwice : (let s := ref []
    0 < s.cfg.rate ∧ s.accT = 0 ∧ s.accI = 0 ∧ s.due = []) ∧
    ∀ c ∈ [((1 / 100 : Rat), [Due.step]), (1 / 7, []), (0, [])], 0 ≤ c.1 := by decide +kernel

end Sys2Proof.Tests
end

/-! PROOFS. Every meaning, every Step and every event answers a next state, but an Advance by a negative time (00_scope R12,
93 U20). -/

namespace Sys2Proof.Machine

/-! ### The instructions that check something first answer on both sides of the check -/

theorem execCall_answers (nnn : BitVec 12) (s : State) : ∃ t, execCall nnn s = .next t := by
  unfold execCall
  split <;> exact ⟨_, rfl⟩

theorem execRet_answers (s : State) : ∃ t, execRet s = .next t := by
  unfold execRet
  split <;> exact ⟨_, rfl⟩

/-- A draw stalls, draws or raises AddressError. -/
theorem execDrw_answers (x y : Reg) (n : BitVec 4) (s : State) : ∃ t, execDrw x y n s = .next t := by
  unfold execDrw
  split
  · exact ⟨_, rfl⟩
  · split <;> exact ⟨_, rfl⟩

theorem execLdVKey_answers (x : Reg) (s : State) : ∃ t, execLdVKey x s = .next t := by
  unfold execLdVKey
  split <;> exact ⟨_, rfl⟩

theorem execLdBcd_answers (x : Reg) (s : State) : ∃ t, execLdBcd x s = .next t := by
  unfold execLdBcd
  split <;> exact ⟨_, rfl⟩

theorem execStoreRegs_answers (x : Reg) (s : State) : ∃ t, execStoreRegs x s = .next t := by
  unfold execStoreRegs
  split <;> exact ⟨_, rfl⟩

theorem execLoadRegs_answers (x : Reg) (s : State) : ∃ t, execLoadRegs x s = .next t := by
  unfold execLoadRegs
  split <;> exact ⟨_, rfl⟩

/-! ### Instructions, Steps, host transactions -/

/-- Every instruction has a meaning in every state: those with no check of their own answer by their definition. -/
theorem exec_answers (i : Instr) (s : State) : ∃ t, exec i s = .next t := by
  cases i with
  | call nnn => exact execCall_answers nnn s
  | ret => exact execRet_answers s
  | drw x y n => exact execDrw_answers x y n s
  | ldVKey x => exact execLdVKey_answers x s
  | ldBcd x => exact execLdBcd_answers x s
  | storeRegs x => exact execStoreRegs_answers x s
  | loadRegs x => exact execLoadRegs_answers x s
  | _ => exact ⟨_, rfl⟩

/-- A Step answers whether the machine is halted, cannot fetch, fetches an illegal word or executes (40_sequencer R120). -/
theorem stepInstr_answers (s : State) : ∃ t, stepInstr s = .next t := by
  cases hhalt : s.halt with
  | true => exact ⟨_, stepInstr_halted hhalt⟩
  | false =>
    cases hfetch : s.canFetch with
    | false => exact ⟨_, stepInstr_fetchFault hhalt hfetch⟩
    | true =>
      cases hdecode : decode s.fetchWord with
      | error r => exact ⟨_, stepInstr_error hhalt hfetch hdecode⟩
      | ok i =>
        rw [stepInstr_exec hhalt hfetch hdecode]
        exact exec_answers i s.fetched

/-- The one transaction that is refused is an Advance by a negative time (93 U20). -/
theorem hostCall_answers_or_refused (call : HostCall) (s : State) :
    (∃ t, hostCall call s = .next t) ∨
      (hostCall call s = .refused .negativeElapsed ∧ ∃ e order, call = .advance e order ∧ e < 0) := by
  cases call with
  | advance e order =>
    by_cases he : e < 0
    · exact .inr ⟨if_pos he, e, order, rfl, he⟩
    · exact .inl ⟨_, if_neg he⟩
  | _ => exact .inl ⟨_, rfl⟩

/-- Settles O12, by the kind of event that is next: a Tick, a Step, a host transaction or none. -/
theorem onlyNegativeTimeIsRefused : Obligations.OnlyNegativeTimeIsRefused := by
  intro s
  match hdue : s.due, hinbox : s.inbox with
  | .tick :: due, _ => exact .inl ⟨_, step_tickDue hdue⟩
  | .step :: due, _ =>
    rw [step_stepDue hdue]
    exact .inl (stepInstr_answers _)
  | [], [] => exact .inl ⟨s, step_idle hdue hinbox⟩
  | [], call :: inbox =>
    rw [step_hostCall hdue hinbox]
    obtain hnext | ⟨hrefused, e, order, rfl, he⟩ := hostCall_answers_or_refused call { s with inbox := inbox }
    · exact .inl hnext
    · exact .inr ⟨hrefused, rfl, e, order, inbox, rfl, he⟩

end Sys2Proof.Machine

/-! PROOFS. What the instructions with a check of their own can do, said once (60_exceptions R291). -/

namespace Sys2Proof.Machine

variable {s t : State}

theorem execCall_cases {nnn : BitVec 12} (h : execCall nnn s = .next t) :
    (∃ hsp : s.sp.val < 16, t = (s.push s.pc hsp).setPc (nnn.setWidth 16)) ∨
    (¬s.sp.val < 16 ∧ t = s.raiseFrom .stackOverflow (.call nnn)) := by
  unfold execCall at h
  split at h
  · cases h; exact .inl ⟨‹_›, rfl⟩
  · cases h; exact .inr ⟨‹_›, rfl⟩

theorem execRet_cases (h : execRet s = .next t) :
    (∃ hsp : 0 < s.sp.val, t = s.popToPc hsp) ∨ (¬0 < s.sp.val ∧ t = s.raiseFrom .stackUnderflow .ret) := by
  unfold execRet at h
  split at h
  · cases h; exact .inl ⟨‹_›, rfl⟩
  · cases h; exact .inr ⟨‹_›, rfl⟩

/-- A draw stalls, draws, or faults, in this order of its checks (45_display R222). -/
theorem execDrw_cases {x y : Reg} {n : BitVec 4} (h : execDrw x y n s = .next t) :
    ((s.cfg.dispWait && !s.vbl) = true ∧ t = s.stall) ∨
    (¬(s.cfg.dispWait && !s.vbl) = true ∧ s.inMemory n.toNat = true ∧ t = s.drawSprite x y n) ∨
    (¬(s.cfg.dispWait && !s.vbl) = true ∧ ¬s.inMemory n.toNat = true ∧ t = s.raiseFrom .addressError (.drw x y n)) := by
  unfold execDrw at h
  split at h
  · cases h; exact .inl ⟨‹_›, rfl⟩
  · split at h
    · cases h; exact .inr (.inl ⟨‹_›, ‹_›, rfl⟩)
    · cases h; exact .inr (.inr ⟨‹_›, ‹_›, rfl⟩)

theorem execLdVKey_cases {x : Reg} (h : execLdVKey x s = .next t) :
    (leastKey (newlyPressed s) = none ∧ t = { s with kprev := s.keys, wait := true }.stall) ∨
    (∃ k, leastKey (newlyPressed s) = some k ∧
      t = { s with kprev := s.keys, wait := false }.setV x (BitVec.ofNat 8 k.val)) := by
  unfold execLdVKey at h
  split at h
  · cases h; exact .inl ⟨‹_›, rfl⟩
  · cases h; exact .inr ⟨_, ‹_›, rfl⟩

theorem execLdBcd_cases {x : Reg} (h : execLdBcd x s = .next t) :
    (s.inMemory 3 = true ∧ t = s.writeMem (s.ea 0) (bcdDigits (s.getV x))) ∨
    (¬s.inMemory 3 = true ∧ t = s.raiseFrom .addressError (.ldBcd x)) := by
  unfold execLdBcd at h
  split at h
  · cases h; exact .inl ⟨‹_›, rfl⟩
  · cases h; exact .inr ⟨‹_›, rfl⟩

theorem execStoreRegs_cases {x : Reg} (h : execStoreRegs x s = .next t) :
    (s.inMemory (x.val + 1) = true ∧ t = (s.storeRegsTo (s.ea 0) x).advanceI x) ∨
    (¬s.inMemory (x.val + 1) = true ∧ t = s.raiseFrom .addressError (.storeRegs x)) := by
  unfold execStoreRegs at h
  split at h
  · cases h; exact .inl ⟨‹_›, rfl⟩
  · cases h; exact .inr ⟨‹_›, rfl⟩

theorem execLoadRegs_cases {x : Reg} (h : execLoadRegs x s = .next t) :
    (s.inMemory (x.val + 1) = true ∧ t = (s.loadRegsFrom (s.ea 0) x).advanceI x) ∨
    (¬s.inMemory (x.val + 1) = true ∧ t = s.raiseFrom .addressError (.loadRegs x)) := by
  unfold execLoadRegs at h
  split at h
  · cases h; exact .inl ⟨‹_›, rfl⟩
  · cases h; exact .inr ⟨‹_›, rfl⟩

end Sys2Proof.Machine

/-! PROOFS. The invariants of 10_state R43: each shared operation keeps them, so every instruction, Step and event does. -/

namespace Sys2Proof.Machine

/-! ### The configuration, and the state after Reset -/

theorem configValid_iff (c : Config) : ConfigValid c ↔ 0 < c.rate ∧ c.fontBase + 80 ≤ 0x200 := by
  unfold ConfigValid configError
  split
  · simp; omega
  · split
    · simp; omega
    · simp; omega

/-- Settles O14: every field of the state after Reset is a value written out in the model, and RATE is positive. -/
theorem resetMeetsTheInvariants : Obligations.ResetMeetsTheInvariants := by
  intro c hc
  have hrate : (0 : Rat) < c.rate := by exact_mod_cast ((configValid_iff c).mp hc).1
  exact
    { config := hc
      memory := ⟨List.Pairwise.nil, by simp [State.resetWith]⟩
      index := by simp [State.resetWith]
      counter := by simp [State.resetWith]
      returns := by simp [State.resetWith]
      halted := by simp [State.resetWith]
      ticks := by simp [State.resetWith]
      steps := by simp [State.resetWith, hrate] }

/-- Settles O40: both reductions, by the setting of I_OVF. -/
theorem indexWritesAreWrapped : Obligations.IndexWritesAreWrapped := by
  intro c n
  refine ⟨wrapI_le c n, fun h => ?_, fun h => ?_⟩
  · simp only [wrapI, h, BitVec.toNat_ofNat]
    omega
  · simp only [wrapI, h, BitVec.toNat_ofNat]
    omega

/-! ### The shared operations -/

/-- The whole transfer lies in MEM, as a bound on its last address (20_memory R69). -/
theorem ea_add_le_of_inMemory {s : State} {len : Nat} (h : s.inMemory len = true) (hlen : 0 < len) :
    s.ea 0 + len ≤ memSize := by
  simp only [State.inMemory, Bool.or_eq_true, beq_iff_eq, decide_eq_true_eq] at h
  simp only [State.ea, memSize]
  omega

namespace Inv

variable {s : State}

theorem setV (h : Inv s) (r : Reg) (b : Byte) : Inv (s.setV r b) := { h with }

theorem setI (h : Inv s) (n : Nat) : Inv (s.setI n) := { h with index := wrapI_le s.cfg n }

theorem setPc (h : Inv s) {w : Word} (hw : w.toNat ≤ 0x10FE) : Inv (s.setPc w) := { h with counter := hw }

/-- A stall goes back to the address fetched from, which no wrap-around takes below 0. -/
theorem stall (h : Inv s) (hpc : 2 ≤ s.pc.toNat) : Inv s.stall := by
  refine h.setPc ?_
  have := h.counter
  simp only [State.pc0]
  bv_omega

theorem skipIf (h : Inv s) (hpc : s.pc.toNat ≤ 0x1000) (b : Bool) : Inv (s.skipIf b) := by
  cases b
  · exact h
  · exact h.setPc (by bv_omega)

theorem setResultAndFlag (h : Inv s) (x : Reg) (r g : Byte) : Inv (s.setResultAndFlag x r g) :=
  (h.setV x r).setV VF g

theorem setLogicResult (h : Inv s) (x : Reg) (b : Byte) : Inv (s.setLogicResult x b) := by
  unfold State.setLogicResult
  split
  · exact h.setResultAndFlag x b 0
  · exact h.setV x b

theorem advanceI (h : Inv s) (x : Reg) : Inv (s.advanceI x) := by
  unfold State.advanceI
  split
  · exact h.setI _
  · exact h

theorem writeMem (h : Inv s) {a : Nat} {bs : List Byte} (ha : a + bs.length ≤ memSize) : Inv (s.writeMem a bs) :=
  { h with memory := writeBytes_wf s.cfg bs s.mem a h.memory ha }

theorem loadRegsFrom (h : Inv s) (a : Nat) (x : Reg) : Inv (s.loadRegsFrom a x) := { h with }

theorem push (h : Inv s) {w : Word} (hsp : s.sp.val < 16) (hw : w.toNat ≤ 0x1000) : Inv (s.push w hsp) := by
  refine { h with returns := fun k => ?_ }
  have := h.returns k
  simp only [push_stack, Fin.getElem_fin, Vector.getElem_set] at this ⊢
  split
  · exact hw
  · exact this

theorem popToPc (h : Inv s) (hsp : 0 < s.sp.val) : Inv (s.popToPc hsp) := by
  refine { h with counter := ?_ }
  have := h.returns ⟨s.sp.val - 1, by omega⟩
  simp only [Fin.getElem_fin] at this
  simp only [popToPc_pc]
  omega

/-- An exception records an error, so that HALT = 1 never stands without one. -/
theorem raise (h : Inv s) (k : ErrorKind) (op p : Word) : Inv (s.raise k op p) :=
  { h with halted := fun _ => Option.some_ne_none _ }

theorem raiseFrom (h : Inv s) (k : ErrorKind) (i : Instr) : Inv (s.raiseFrom k i) := h.raise ..

theorem drawSprite (h : Inv s) (x y : Reg) (n : BitVec 4) : Inv (s.drawSprite x y n) := { h with }

theorem drawRandom (h : Inv s) : Inv s.drawRandom := { h with }

theorem withKeyWait (h : Inv s) (keys : BitVec 16) (armed : Bool) : Inv { s with kprev := keys, wait := armed } := { h with }

theorem withDue (h : Inv s) (due : List Due) : Inv { s with due := due } := { h with }

theorem withInbox (h : Inv s) (inbox : List HostCall) : Inv { s with inbox := inbox } := { h with }

theorem fetched (h : Inv s) (hf : s.pc.toNat ≤ 0x0FFE) : Inv s.fetched := h.setPc (by bv_omega)

theorem tick (h : Inv s) : Inv s.tick := { h with }

/-! ### The host's transactions -/

theorem hostReset (h : Inv s) : Inv s.hostReset := { resetMeetsTheInvariants s.cfg h.config with }

theorem afterLoad (h : Inv s) (rom : List Byte) : Inv (s.afterLoad rom) := by
  obtain ⟨hlen, heq⟩ | ⟨-, heq⟩ := afterLoad_cases s rom <;> rw [heq]
  · exact h.writeMem (by simp only [progBase, romMax, memSize] at *; omega)
  · exact h

/-- The time left after an Advance is within the range of its accumulator; ERR is cleared only where HALT = 0. -/
theorem advance (h : Inv s) {e : Rat} (he : 0 ≤ e) (order : List Due) : Inv (s.advance e order) := by
  have hticks := timeLeft_range (s.accT + e) timerHz (add_nonneg h.ticks.1 he) (by decide)
  have hsteps := timeLeft_range (s.accI + e) s.cfg.rate (add_nonneg h.steps.1 he) ((configValid_iff s.cfg).mp h.config).1
  refine { h with halted := fun hhalt => ?_, ticks := hticks, steps := hsteps }
  have hsame : (s.advance e order).err = s.err := if_pos hhalt
  rw [hsame]
  exact h.halted hhalt

end Inv

/-! ### Instructions, Steps, events -/

/-- Every instruction keeps the invariants where it is dispatched after a fetch inside MEM: PC = pc0 + 2 (40_sequencer R122). -/
theorem exec_keeps_inv {i : Instr} {s t : State} (hs : Inv s) (hlow : 2 ≤ s.pc.toNat) (hhigh : s.pc.toNat ≤ 0x1000)
    (h : exec i s = .next t) : Inv t := by
  cases i with
  | cls => cases h; exact { hs with }
  | ret =>
    obtain ⟨hsp, rfl⟩ | ⟨-, rfl⟩ := execRet_cases h
    · exact hs.popToPc hsp
    · exact hs.raiseFrom ..
  | jp nnn => cases h; exact hs.setPc (by bv_omega)
  | call nnn =>
    obtain ⟨hsp, rfl⟩ | ⟨-, rfl⟩ := execCall_cases h
    · exact (hs.push hsp hhigh).setPc (by bv_omega)
    · exact hs.raiseFrom ..
  | jpOffset nnn x => cases h; exact hs.setPc (by bv_omega)
  | seImm | sneImm | seReg | sneReg | skp | sknp => cases h; exact hs.skipIf hhigh _
  | ldImm | addImm | ldReg | ldVDt => cases h; exact hs.setV ..
  | orReg | andReg | xorReg => cases h; exact hs.setLogicResult ..
  | addReg | subReg | subnReg | shrReg | shlReg => cases h; exact hs.setResultAndFlag ..
  | ldI | addIV | ldFont => cases h; exact hs.setI _
  | rnd x kk => cases h; exact hs.drawRandom.setV ..
  | drw x y n =>
    obtain ⟨-, rfl⟩ | ⟨-, -, rfl⟩ | ⟨-, -, rfl⟩ := execDrw_cases h
    · exact hs.stall hlow
    · exact hs.drawSprite ..
    · exact hs.raiseFrom ..
  | ldVKey x =>
    obtain ⟨-, rfl⟩ | ⟨k, -, rfl⟩ := execLdVKey_cases h
    · exact (hs.withKeyWait ..).stall hlow
    · exact (hs.withKeyWait ..).setV ..
  | ldDtV | ldStV => cases h; exact { hs with }
  | ldBcd x =>
    obtain ⟨hin, rfl⟩ | ⟨-, rfl⟩ := execLdBcd_cases h
    · exact hs.writeMem (ea_add_le_of_inMemory hin (Nat.succ_pos _))
    · exact hs.raiseFrom ..
  | storeRegs x =>
    obtain ⟨hin, rfl⟩ | ⟨-, rfl⟩ := execStoreRegs_cases h
    · have := ea_add_le_of_inMemory hin (Nat.succ_pos _)
      exact (hs.writeMem (by simpa using this)).advanceI x
    · exact hs.raiseFrom ..
  | loadRegs x =>
    obtain ⟨-, rfl⟩ | ⟨-, rfl⟩ := execLoadRegs_cases h
    · exact (hs.loadRegsFrom ..).advanceI x
    · exact hs.raiseFrom ..

theorem stepInstr_keeps_inv {s t : State} (hs : Inv s) (h : stepInstr s = .next t) : Inv t := by
  obtain ⟨-, rfl⟩ | ⟨-, -, rfl⟩ | ⟨-, hf, -, rfl⟩ | ⟨-, hf, i, -, hexec⟩ := stepInstr_cases h
  · exact hs
  · exact hs.raise ..
  · exact (hs.fetched ((canFetch_iff s).mp hf)).raise ..
  · have hpc := (canFetch_iff s).mp hf
    refine exec_keeps_inv (hs.fetched hpc) ?_ ?_ hexec
    · simp only [State.fetched, setPc_pc]; bv_omega
    · simp only [State.fetched, setPc_pc]; bv_omega

theorem hostCall_keeps_inv {call : HostCall} {s t : State} (hs : Inv s) (h : hostCall call s = .next t) : Inv t := by
  obtain ⟨-, rfl⟩ | ⟨rom, -, rfl⟩ | ⟨v, -, rfl⟩ | ⟨e, order, -, he, rfl⟩ | ⟨-, rfl⟩ | ⟨bytes, -, rfl⟩ := hostCall_cases h
  · exact hs.hostReset
  · exact hs.afterLoad rom
  · exact { hs with }
  · exact hs.advance he order
  · exact { hs with }
  · exact { hs with }

/-- Settles O13: a Tick, a Step, a transaction of the host and the want of an event each keep the invariants. -/
theorem everyEventKeepsTheInvariants : Obligations.EveryEventKeepsTheInvariants := by
  intro s t hs h
  obtain ⟨due, -, rfl⟩ | ⟨due, -, hstep⟩ | ⟨call, inbox, -, -, hcall⟩ | ⟨-, -, rfl⟩ := step_cases h
  · exact (hs.withDue due).tick
  · exact stepInstr_keeps_inv (hs.withDue due) hstep
  · exact hostCall_keeps_inv (hs.withInbox inbox) hcall
  · exact hs

end Sys2Proof.Machine

/-! PROOFS. Frames: what each shared operation may write, and from that what every instruction may write (10_state R41). -/

namespace Sys2Proof.Machine

/-! ### Frames compose -/

theorem Unchanged.refl (s : State) (written : Element → Prop) : Unchanged s s written := by
  intro e _
  cases e <;> rfl

theorem Element.Same.trans {s t u : State} {e : Element} (hst : e.Same s t) (htu : e.Same t u) : e.Same s u := by
  cases e <;> exact Eq.trans htu hst

theorem Unchanged.mono {s t : State} {few more : Element → Prop} (h : Unchanged s t few) (hsub : ∀ e, few e → more e) :
    Unchanged s t more :=
  fun e he => h e fun hw => he (hsub e hw)

theorem Unchanged.trans {s t u : State} {first second : Element → Prop} (hst : Unchanged s t first)
    (htu : Unchanged t u second) : Unchanged s u (fun e => first e ∨ second e) :=
  fun e he => (hst e fun hw => he (.inl hw)).trans (htu e fun hw => he (.inr hw))

/-! ### The shared operations -/

section
variable (s : State)

theorem unchanged_setV (r : Reg) (b : Byte) : Unchanged s (s.setV r b) (fun e => e = .v r) := by
  intro e he
  cases e with
  | v q => exact getV_setV_other s r q b fun hq => he (congrArg Element.v hq)
  | _ => rfl

theorem unchanged_setI (n : Nat) : Unchanged s (s.setI n) (fun e => e = .i) := by
  intro e he
  cases e with
  | i => exact absurd rfl he
  | _ => rfl

theorem unchanged_setPc (w : Word) : Unchanged s (s.setPc w) (fun e => e = .pc) := by
  intro e he
  cases e with
  | pc => exact absurd rfl he
  | _ => rfl

theorem unchanged_stall : Unchanged s s.stall (fun e => e = .pc) := unchanged_setPc s s.pc0

theorem unchanged_skipIf (b : Bool) : Unchanged s (s.skipIf b) (fun e => e = .pc) := by
  cases b
  · exact Unchanged.refl s _
  · exact unchanged_setPc s _

theorem unchanged_setResultAndFlag (x : Reg) (r g : Byte) :
    Unchanged s (s.setResultAndFlag x r g) (fun e => e = .v x ∨ e = .v VF) :=
  (unchanged_setV s x r).trans (unchanged_setV _ VF g)

theorem unchanged_setLogicResult (x : Reg) (b : Byte) :
    Unchanged s (s.setLogicResult x b) (fun e => e = .v x ∨ (s.cfg.vfReset = true ∧ e = .v VF)) := by
  unfold State.setLogicResult
  split
  case isTrue hvf => exact (unchanged_setResultAndFlag s x b 0).mono fun e he => he.imp_right fun hv => ⟨hvf, hv⟩
  case isFalse => exact (unchanged_setV s x b).mono fun e he => .inl he

theorem unchanged_writeMem (a : Nat) (bs : List Byte) : Unchanged s (s.writeMem a bs) (fun e => e.memIn a bs.length) := by
  intro e he
  cases e with
  | mem b => exact readMem_writeMem_outside s a b bs he
  | _ => rfl

theorem unchanged_loadRegsFrom (a : Nat) (x : Reg) : Unchanged s (s.loadRegsFrom a x) (fun e => e.regUpTo x) := by
  intro e he
  cases e with
  | v q => exact (getV_loadRegsFrom s a x q).trans (if_neg he)
  | _ => rfl

theorem unchanged_advanceI (x : Reg) : Unchanged s (s.advanceI x) (fun e => s.cfg.memIncr = true ∧ e = .i) := by
  unfold State.advanceI
  split
  case isTrue hincr => exact (unchanged_setI s _).mono fun e he => ⟨hincr, he⟩
  case isFalse => exact Unchanged.refl s _

theorem unchanged_push (w : Word) (h : s.sp.val < 16) :
    Unchanged s (s.push w h) (fun e => e = .stack ⟨s.sp.val, h⟩ ∨ e = .sp) := by
  intro e he
  cases e with
  | sp => exact absurd (.inr rfl) he
  | stack k =>
    have hk : s.sp.val ≠ k.val := fun heq => he (.inl (congrArg Element.stack (Fin.ext heq.symm)))
    exact Vector.getElem_set_ne h k.isLt hk
  | _ => rfl

theorem unchanged_popToPc (h : 0 < s.sp.val) : Unchanged s (s.popToPc h) (fun e => e = .sp ∨ e = .pc) := by
  intro e he
  cases e with
  | sp => exact absurd (.inl rfl) he
  | pc => exact absurd (.inr rfl) he
  | _ => rfl

theorem unchanged_raise (k : ErrorKind) (op p : Word) : Unchanged s (s.raise k op p) Element.raised := by
  intro e he
  cases e with
  | err => exact absurd (.inl rfl) he
  | halt => exact absurd (.inr rfl) he
  | _ => rfl

theorem unchanged_drawRandom : Unchanged s s.drawRandom (fun e => e = .rndIn ∨ e = .rndDrawn) := by
  intro e he
  cases e with
  | rndIn => exact absurd (.inl rfl) he
  | rndDrawn => exact absurd (.inr rfl) he
  | _ => rfl

/-- A draw writes the display, VF, DIRTY, and VBL only under Q.disp_wait (45_display R221, R222). -/
theorem unchanged_drawSprite (x y : Reg) (n : BitVec 4) :
    Unchanged s (s.drawSprite x y n)
      (fun e => e.isPixel ∨ e = .v VF ∨ e = .dirty ∨ (s.cfg.dispWait = true ∧ e = .vbl)) := by
  intro e he
  cases e with
  | pixel row col => exact absurd (.inl trivial) he
  | v q => exact getV_setV_other s VF q _ fun hq => he (.inr (.inl (congrArg Element.v hq)))
  | dirty => exact absurd (.inr (.inr (.inl rfl))) he
  | vbl =>
    have hwait : s.cfg.dispWait = false := by simpa [Element.isPixel] using he
    simp [Element.Same, hwait]
  | _ => rfl

theorem unchanged_withKeyWait (keys : BitVec 16) (armed : Bool) :
    Unchanged s { s with kprev := keys, wait := armed } (fun e => e = .wait ∨ e = .kprev) := by
  intro e he
  cases e with
  | wait => exact absurd (.inl rfl) he
  | kprev => exact absurd (.inr rfl) he
  | _ => rfl

end

/-! ### Instructions -/

/-- What an instruction may write: its row of the access matrix (R41), ERR and HALT where it has a check of its own (R291). -/
def mayWrite (i : Instr) (s : State) (e : Element) : Prop := writtenBy i s e ∨ (canRaise i ∧ e.raised)

theorem unchanged_raiseFrom_mayWrite {i : Instr} (hcan : canRaise i) (s : State) (k : ErrorKind) :
    Unchanged s (s.raiseFrom k i) (mayWrite i s) :=
  (unchanged_raise s k _ _).mono fun _ he => .inr ⟨hcan, he⟩

theorem execCall_frame {nnn : BitVec 12} {s t : State} (h : execCall nnn s = .next t) :
    Unchanged s t (mayWrite (.call nnn) s) := by
  obtain ⟨hsp, rfl⟩ | ⟨-, rfl⟩ := execCall_cases h
  · refine ((unchanged_push s s.pc hsp).trans (unchanged_setPc _ _)).mono fun e he => .inl ?_
    obtain (rfl | rfl) | rfl := he <;> simp [writtenBy]
  · exact unchanged_raiseFrom_mayWrite (by trivial) s _

theorem execRet_frame {s t : State} (h : execRet s = .next t) : Unchanged s t (mayWrite .ret s) := by
  obtain ⟨hsp, rfl⟩ | ⟨-, rfl⟩ := execRet_cases h
  · exact (unchanged_popToPc s hsp).mono fun e he => .inl he
  · exact unchanged_raiseFrom_mayWrite (by trivial) s _

/-- A draw stalls, and so writes PC, only under Q.disp_wait. -/
theorem execDrw_frame {x y : Reg} {n : BitVec 4} {s t : State} (h : execDrw x y n s = .next t) :
    Unchanged s t (mayWrite (.drw x y n) s) := by
  obtain ⟨hstall, rfl⟩ | ⟨-, -, rfl⟩ | ⟨-, -, rfl⟩ := execDrw_cases h
  · have hwait : s.cfg.dispWait = true := (Bool.and_eq_true_iff.mp hstall).1
    exact (unchanged_stall s).mono fun e he => .inl (.inr (.inr (.inr ⟨hwait, .inr he⟩)))
  · refine (unchanged_drawSprite s x y n).mono fun e he => .inl ?_
    exact he.imp_right (Or.imp_right (Or.imp_right (And.imp_right .inl)))
  · exact unchanged_raiseFrom_mayWrite (by trivial) s _

theorem execLdVKey_frame {x : Reg} {s t : State} (h : execLdVKey x s = .next t) : Unchanged s t (mayWrite (.ldVKey x) s) := by
  obtain ⟨-, rfl⟩ | ⟨k, -, rfl⟩ := execLdVKey_cases h
  · refine ((unchanged_withKeyWait s s.keys true).trans (unchanged_stall _)).mono fun e he => .inl ?_
    obtain (rfl | rfl) | rfl := he <;> simp [writtenBy]
  · refine ((unchanged_withKeyWait s s.keys false).trans (unchanged_setV _ x _)).mono fun e he => .inl ?_
    obtain (rfl | rfl) | rfl := he <;> simp [writtenBy]

theorem execLdBcd_frame {x : Reg} {s t : State} (h : execLdBcd x s = .next t) : Unchanged s t (mayWrite (.ldBcd x) s) := by
  obtain ⟨-, rfl⟩ | ⟨-, rfl⟩ := execLdBcd_cases h
  · exact (unchanged_writeMem s _ _).mono fun e he => .inl he
  · exact unchanged_raiseFrom_mayWrite (by trivial) s _

theorem unchanged_storeRegsTo (s : State) (a : Nat) (x : Reg) :
    Unchanged s (s.storeRegsTo a x) (fun e => e.memIn a (x.val + 1)) := by
  have h := unchanged_writeMem s a ((regsUpTo x).map s.getV)
  rwa [List.length_map, length_regsUpTo] at h

theorem execStoreRegs_frame {x : Reg} {s t : State} (h : execStoreRegs x s = .next t) :
    Unchanged s t (mayWrite (.storeRegs x) s) := by
  obtain ⟨-, rfl⟩ | ⟨-, rfl⟩ := execStoreRegs_cases h
  · exact ((unchanged_storeRegsTo s _ x).trans (unchanged_advanceI _ x)).mono fun e he => .inl he
  · exact unchanged_raiseFrom_mayWrite (by trivial) s _

theorem execLoadRegs_frame {x : Reg} {s t : State} (h : execLoadRegs x s = .next t) :
    Unchanged s t (mayWrite (.loadRegs x) s) := by
  obtain ⟨-, rfl⟩ | ⟨-, rfl⟩ := execLoadRegs_cases h
  · exact ((unchanged_loadRegsFrom s _ x).trans (unchanged_advanceI _ x)).mono fun e he => .inl he
  · exact unchanged_raiseFrom_mayWrite (by trivial) s _

/-- The instructions without a check of their own write their row of the matrix and nothing else. -/
theorem exec_frame {i : Instr} {s t : State} (h : exec i s = .next t) : Unchanged s t (mayWrite i s) := by
  cases i with
  | call nnn => exact execCall_frame h
  | ret => exact execRet_frame h
  | drw x y n => exact execDrw_frame h
  | ldVKey x => exact execLdVKey_frame h
  | ldBcd x => exact execLdBcd_frame h
  | storeRegs x => exact execStoreRegs_frame h
  | loadRegs x => exact execLoadRegs_frame h
  | cls =>
    cases h
    intro e he
    cases e with
    | pixel row col => exact absurd (.inl (.inl trivial)) he
    | dirty => exact absurd (.inl (.inr rfl)) he
    | _ => rfl
  | jp | jpOffset => cases h; exact (unchanged_setPc s _).mono fun e => .inl
  | seImm | sneImm | seReg | sneReg | skp | sknp => cases h; exact (unchanged_skipIf s _).mono fun e => .inl
  | ldImm | addImm | ldReg | ldVDt => cases h; exact (unchanged_setV s _ _).mono fun e => .inl
  | orReg | andReg | xorReg => cases h; exact (unchanged_setLogicResult s _ _).mono fun e => .inl
  | addReg | subReg | subnReg | shrReg | shlReg =>
    cases h; exact (unchanged_setResultAndFlag s _ _ _).mono fun e => .inl
  | ldI | addIV | ldFont => cases h; exact (unchanged_setI s _).mono fun e => .inl
  | rnd x kk =>
    cases h
    exact ((unchanged_drawRandom s).trans (unchanged_setV _ x _)).mono fun e he => .inl he.symm
  | ldDtV x =>
    cases h
    intro e he
    cases e with
    | dt => exact absurd (.inl rfl) he
    | _ => rfl
  | ldStV x =>
    cases h
    intro e he
    cases e with
    | st => exact absurd (.inl rfl) he
    | _ => rfl

/-- Settles O11: every instruction answers, and its answer keeps to its row of the access matrix. -/
theorem instructionsWriteOnlyTheirElements : Obligations.InstructionsWriteOnlyTheirElements := by
  intro i s
  obtain ⟨t, ht⟩ := exec_answers i s
  exact ⟨t, ht, exec_frame ht⟩

end Sys2Proof.Machine

/-! PROOFS. What a Step and a host transaction may write, and the statements of 10_state that follow from it. -/

namespace Sys2Proof.Machine

/-! ### Elements that no instruction writes, or only one -/

/-- The elements the instruction columns of the access matrix leave empty: the configuration, the keys, the accumulators,
and the events to come (10_state R41). -/
def Element.hostOwned : Element → Prop
  | .cfg | .keys | .accT | .accI | .due | .inbox => True
  | _ => False

theorem not_mayWrite_hostOwned {i : Instr} {s : State} {e : Element} (he : e.hostOwned) : ¬mayWrite i s e := by
  cases e with
  | cfg | keys | accT | accI | due | inbox =>
    cases i <;> simp [mayWrite, writtenBy, Element.raised, Element.isPixel, Element.memIn, Element.regUpTo]
  | _ => exact he.elim

theorem eq_ldDtV_of_mayWrite_dt {i : Instr} {s : State} (h : mayWrite i s .dt) : ∃ x, i = .ldDtV x := by
  cases i with
  | ldDtV x => exact ⟨x, rfl⟩
  | _ => simp [mayWrite, writtenBy, Element.raised, Element.isPixel, Element.memIn, Element.regUpTo] at h

theorem eq_ldStV_of_mayWrite_st {i : Instr} {s : State} (h : mayWrite i s .st) : ∃ x, i = .ldStV x := by
  cases i with
  | ldStV x => exact ⟨x, rfl⟩
  | _ => simp [mayWrite, writtenBy, Element.raised, Element.isPixel, Element.memIn, Element.regUpTo] at h

theorem eq_ldVKey_of_mayWrite_wait {i : Instr} {s : State} (h : mayWrite i s .wait) : ∃ x, i = .ldVKey x := by
  cases i with
  | ldVKey x => exact ⟨x, rfl⟩
  | _ => simp [mayWrite, writtenBy, Element.raised, Element.isPixel, Element.memIn, Element.regUpTo] at h

/-! ### Steps and transactions -/

/-- Whatever a Step changes besides PC and what an exception writes, the instruction it executes may write. -/
theorem stepInstr_same_or_executes {s t : State} {e : Element} (hpc : e ≠ .pc) (hraised : ¬e.raised)
    (h : stepInstr s = .next t) : e.Same s t ∨
      ∃ i, (s.halt = false ∧ s.canFetch = true ∧ decode s.fetchWord = .ok i) ∧ mayWrite i s.fetched e ∧
        exec i s.fetched = .next t := by
  have hfetched : e.Same s s.fetched := unchanged_setPc s _ e hpc
  obtain ⟨-, rfl⟩ | ⟨-, -, rfl⟩ | ⟨-, -, -, rfl⟩ | ⟨hhalt, hfetch, i, hdecode, hexec⟩ := stepInstr_cases h
  · exact .inl (Unchanged.refl t (fun _ => False) e id)
  · exact .inl (unchanged_raise s _ _ _ e hraised)
  · exact .inl (hfetched.trans (unchanged_raise s.fetched _ _ _ e hraised))
  · by_cases hw : mayWrite i s.fetched e
    · exact .inr ⟨i, ⟨hhalt, hfetch, hdecode⟩, hw, hexec⟩
    · exact .inl (hfetched.trans (exec_frame hexec e hw))

theorem stepInstr_keeps_hostOwned {s t : State} {e : Element} (he : e.hostOwned) (h : stepInstr s = .next t) :
    e.Same s t := by
  have hpc : e ≠ .pc := by rintro rfl; exact he
  have hraised : ¬e.raised := by rintro (rfl | rfl) <;> exact he
  obtain hsame | ⟨i, -, hw, -⟩ := stepInstr_same_or_executes hpc hraised h
  · exact hsame
  · exact absurd hw (not_mayWrite_hostOwned he)

/-- Load writes the bytes of the image's block and nothing else (47_host_interface R260). -/
theorem unchanged_afterLoad (s : State) (rom : List Byte) :
    Unchanged s (s.afterLoad rom) (fun e => e.memIn progBase rom.length) := by
  obtain ⟨-, heq⟩ | ⟨-, heq⟩ := afterLoad_cases s rom <;> rw [heq]
  · exact unchanged_writeMem s progBase rom
  · exact Unchanged.refl s _

/-! ### The configuration (R39) -/

theorem hostCall_cfg {call : HostCall} {s t : State} (h : hostCall call s = .next t) : t.cfg = s.cfg := by
  obtain ⟨-, rfl⟩ | ⟨rom, -, rfl⟩ | ⟨v, -, rfl⟩ | ⟨e, order, -, -, rfl⟩ | ⟨-, rfl⟩ | ⟨bytes, -, rfl⟩ := hostCall_cases h
  case inr.inl => exact unchanged_afterLoad s rom .cfg id
  all_goals rfl

/-- Settles O15: a Tick and the host's transactions write other elements, and no instruction lists the configuration. -/
theorem configurationNeverChanges : Obligations.ConfigurationNeverChanges := by
  intro s t h
  obtain ⟨due, -, rfl⟩ | ⟨due, -, hstep⟩ | ⟨call, inbox, -, -, hcall⟩ | ⟨-, -, rfl⟩ := step_cases h
  · rfl
  · have hcfg := stepInstr_keeps_hostOwned (e := .cfg) trivial hstep
    exact hcfg
  · have hcfg := hostCall_cfg hcall
    exact hcfg
  · rfl

/-! ### The keys (R31) -/

/-- Settles O18: while events are due no SetKeys can be next, and neither a Tick nor a Step writes KEYS. -/
theorem keysAreConstantDuringAnAdvance : Obligations.KeysAreConstantDuringAnAdvance := by
  intro s t hdue h
  obtain ⟨due, -, rfl⟩ | ⟨due, -, hstep⟩ | ⟨_, _, hnil, -⟩ | ⟨hnil, -⟩ := step_cases h
  · rfl
  · have hkeys := stepInstr_keeps_hostOwned (e := .keys) trivial hstep
    exact hkeys
  · exact absurd hnil hdue
  · exact absurd hnil hdue

/-! ### The timers (R29, R43) -/

theorem countDown_le (b : Byte) : (countDown b).toNat ≤ b.toNat := by
  unfold countDown
  split
  · exact Nat.zero_le _
  · bv_omega

theorem stepInstr_dt {s t : State} (h : stepInstr s = .next t) : t.dt = s.dt ∨
    ∃ x, (s.halt = false ∧ s.canFetch = true ∧ decode s.fetchWord = .ok (.ldDtV x)) ∧ t.dt = s.getV x := by
  obtain hsame | ⟨i, hruns, hw, hexec⟩ := stepInstr_same_or_executes (e := .dt) nofun (by simp [Element.raised]) h
  · exact .inl hsame
  · obtain ⟨x, rfl⟩ := eq_ldDtV_of_mayWrite_dt hw
    cases hexec
    exact .inr ⟨x, hruns, rfl⟩

theorem stepInstr_st {s t : State} (h : stepInstr s = .next t) : t.st = s.st ∨
    ∃ x, (s.halt = false ∧ s.canFetch = true ∧ decode s.fetchWord = .ok (.ldStV x)) ∧ t.st = s.getV x := by
  obtain hsame | ⟨i, hruns, hw, hexec⟩ := stepInstr_same_or_executes (e := .st) nofun (by simp [Element.raised]) h
  · exact .inl hsame
  · obtain ⟨x, rfl⟩ := eq_ldStV_of_mayWrite_st hw
    cases hexec
    exact .inr ⟨x, hruns, rfl⟩

theorem hostCall_timers {call : HostCall} {s t : State} (h : hostCall call s = .next t) :
    (t.dt = s.dt ∧ t.st = s.st) ∨ (call = .reset ∧ t.dt = 0 ∧ t.st = 0) := by
  obtain ⟨hreset, rfl⟩ | ⟨rom, -, rfl⟩ | ⟨v, -, rfl⟩ | ⟨e, order, -, -, rfl⟩ | ⟨-, rfl⟩ | ⟨bytes, -, rfl⟩ := hostCall_cases h
  case inl => exact .inr ⟨hreset, rfl, rfl⟩
  case inr.inl => exact .inl ⟨unchanged_afterLoad s rom .dt id, unchanged_afterLoad s rom .st id⟩
  all_goals exact .inl ⟨rfl, rfl⟩

/-- Settles O17, by the event: a Tick counts both timers down, a Step executes their instruction or leaves them, of the
host's transactions Reset alone writes them. -/
theorem timersChangeOnlyByTheirWriters : Obligations.TimersChangeOnlyByTheirWriters := by
  intro s t h
  obtain ⟨due, hdue, rfl⟩ | ⟨due, hdue, hstep⟩ | ⟨call, inbox, hdue, hinbox, hcall⟩ | ⟨-, -, rfl⟩ := step_cases h
  · exact ⟨.inr (.inl ⟨⟨due, hdue⟩, countDown_le s.dt⟩), .inr (.inl ⟨⟨due, hdue⟩, countDown_le s.st⟩)⟩
  · constructor
    · exact (stepInstr_dt hstep).imp_right fun ⟨x, hruns, hx⟩ => .inr (.inr ⟨x, ⟨⟨due, hdue⟩, hruns⟩, hx⟩)
    · exact (stepInstr_st hstep).imp_right fun ⟨x, hruns, hx⟩ => .inr (.inr ⟨x, ⟨⟨due, hdue⟩, hruns⟩, hx⟩)
  · obtain ⟨hdt, hst⟩ | ⟨rfl, hdt, hst⟩ := hostCall_timers hcall
    · exact ⟨.inl hdt, .inl hst⟩
    · exact ⟨.inr (.inr (.inl ⟨⟨hdue, inbox, hinbox⟩, hdt⟩)), .inr (.inr (.inl ⟨⟨hdue, inbox, hinbox⟩, hst⟩))⟩
  · exact ⟨.inl rfl, .inl rfl⟩

/-! ### The key wait (R33, R43) -/

theorem atKeyWait_of_wait_eq_false {s : State} (h : s.wait = false) : AtKeyWait s :=
  fun hwait => absurd hwait (by simp [h])

/-- A machine that cannot fetch an Fx0A does not wait. -/
theorem AtKeyWait.wait_eq_false {s : State} (hs : AtKeyWait s)
    (h : s.canFetch = true → ∀ x, decode s.fetchWord ≠ .ok (.ldVKey x)) : s.wait = false := by
  by_contra hwait
  obtain ⟨hfetch, x, hdecode⟩ := hs (Bool.eq_true_of_not_eq_false hwait)
  exact h hfetch x hdecode

/-- An Fx0A that stalls goes back to where it was fetched from; memory, and so the word there, it leaves alone. -/
theorem stall_fetched_withKeyWait (s : State) (keys : BitVec 16) :
    { s.fetched with kprev := keys, wait := true }.stall = { s with kprev := keys, wait := true } := by
  simp [State.stall, State.pc0, State.fetched, State.setPc]

theorem stepInstr_keeps_atKeyWait {s t : State} (hs : AtKeyWait s) (h : stepInstr s = .next t) : AtKeyWait t := by
  obtain ⟨-, rfl⟩ | ⟨-, hfault, rfl⟩ | ⟨-, -, ⟨r, herror⟩, rfl⟩ | ⟨-, hfetch, i, hdecode, hexec⟩ := stepInstr_cases h
  · exact hs
  · refine atKeyWait_of_wait_eq_false (hs.wait_eq_false ?_)
    simp [hfault]
  · refine atKeyWait_of_wait_eq_false (hs.wait_eq_false ?_)
    simp [herror]
  · by_cases hi : ∃ x, i = .ldVKey x
    · obtain ⟨x, rfl⟩ := hi
      obtain ⟨-, rfl⟩ | ⟨k, -, rfl⟩ := execLdVKey_cases hexec
      · rw [stall_fetched_withKeyWait]
        exact fun _ => ⟨hfetch, x, hdecode⟩
      · exact atKeyWait_of_wait_eq_false rfl
    · have hsame : t.wait = s.wait := exec_frame hexec .wait fun hw => hi (eq_ldVKey_of_mayWrite_wait hw)
      refine atKeyWait_of_wait_eq_false (hsame.trans (hs.wait_eq_false fun _ x hx => hi ⟨x, ?_⟩))
      exact Except.ok.inj (hdecode.symm.trans hx)

/-- Load alone may put another word where the machine waits (log 14). -/
theorem hostCall_keeps_atKeyWait {call : HostCall} {s t : State} (hs : AtKeyWait s) (hload : ∀ rom, call ≠ .load rom)
    (h : hostCall call s = .next t) : AtKeyWait t := by
  obtain ⟨-, rfl⟩ | ⟨rom, hcall, -⟩ | ⟨v, -, rfl⟩ | ⟨e, order, -, -, rfl⟩ | ⟨-, rfl⟩ | ⟨bytes, -, rfl⟩ := hostCall_cases h
  case inl => exact atKeyWait_of_wait_eq_false rfl
  case inr.inl => exact absurd hcall (hload rom)
  all_goals exact hs

/-- Settles O16: a waiting machine executes its Fx0A, which stalls or ends the wait, and nothing but a Load changes the word
it stands at. -/
theorem waitingMachineStandsAtKeyWait : Obligations.WaitingMachineStandsAtKeyWait := by
  refine ⟨fun s t hs h => stepInstr_keeps_atKeyWait hs h, fun s t hs hload h => ?_⟩
  obtain ⟨due, -, rfl⟩ | ⟨due, -, hstep⟩ | ⟨call, inbox, hdue, hinbox, hcall⟩ | ⟨-, -, rfl⟩ := step_cases h
  · exact hs
  · have hdueTaken : AtKeyWait { s with due := due } := hs
    exact stepInstr_keeps_atKeyWait hdueTaken hstep
  · have hcallTaken : AtKeyWait { s with inbox := inbox } := hs
    refine hostCall_keeps_atKeyWait hcallTaken (fun rom hrom => hload rom ⟨hdue, inbox, ?_⟩) hcall
    rw [hinbox, hrom]
  · exact hs

end Sys2Proof.Machine

/-! PROOFS. Stack entries at SP and above are never read (10_state R28): an instruction run with other dead entries ends in
the same state but for dead entries. -/

namespace Sys2Proof.Machine

/-- Two stacks hold the same `n` lowest entries. -/
def AgreeBelow (n : Nat) (a b : Vector Word 16) : Prop := ∀ k : Fin 16, k.val < n → a[k] = b[k]

theorem unchanged_withStack (t : State) (stack : Vector Word 16) (h : AgreeBelow t.sp.val stack t.stack) :
    Unchanged t { t with stack := stack } (fun e => ∃ k : Fin 16, e = .stack k ∧ t.sp.val ≤ k.val) := by
  intro e he
  cases e with
  | stack k => exact h k (Nat.lt_of_not_le fun hk => he ⟨k, rfl, hk⟩)
  | _ => rfl

/-! ### Operations that choose by a quirk or a condition: the choice does not look at the stack -/

theorem skipIf_withStack (s : State) (stack : Vector Word 16) (b : Bool) :
    { s with stack := stack }.skipIf b = { s.skipIf b with stack := stack } := by
  cases b <;> rfl

theorem setLogicResult_withStack (s : State) (stack : Vector Word 16) (x : Reg) (b : Byte) :
    { s with stack := stack }.setLogicResult x b = { s.setLogicResult x b with stack := stack } := by
  unfold State.setLogicResult
  split <;> rfl

theorem advanceI_withStack (s : State) (stack : Vector Word 16) (x : Reg) :
    { s with stack := stack }.advanceI x = { s.advanceI x with stack := stack } := by
  unfold State.advanceI
  split <;> rfl

theorem loadInto_withStack (s : State) (stack : Vector Word 16) (a : Nat) (rs : List Reg) (v : Vector Byte 16) :
    loadInto { s with stack := stack } a rs v = loadInto s a rs v := by
  induction rs generalizing v with
  | nil => rfl
  | cons r rs ih => exact ih _

theorem loadRegsFrom_withStack (s : State) (stack : Vector Word 16) (a : Nat) (x : Reg) :
    { s with stack := stack }.loadRegsFrom a x = { s.loadRegsFrom a x with stack := stack } := by
  simp only [State.loadRegsFrom, loadInto_withStack]

/-- An instruction other than a call and a return takes any stack along unread. -/
theorem exec_withStack {i : Instr} {s t : State} (stack : Vector Word 16) (hcall : ∀ nnn, i ≠ .call nnn) (hret : i ≠ .ret)
    (h : exec i s = .next t) : exec i { s with stack := stack } = .next { t with stack := stack } := by
  cases i with
  | call nnn => exact absurd rfl (hcall nnn)
  | ret => exact absurd rfl hret
  | seImm | sneImm | seReg | sneReg | skp | sknp => cases h; rw [← skipIf_withStack]; rfl
  | orReg | andReg | xorReg => cases h; rw [← setLogicResult_withStack]; rfl
  | drw x y n =>
    obtain ⟨hstall, rfl⟩ | ⟨hgo, hin, rfl⟩ | ⟨hgo, hout, rfl⟩ := execDrw_cases h
    · exact if_pos hstall
    · exact (if_neg hgo).trans (if_pos hin)
    · exact (if_neg hgo).trans (if_neg hout)
  | ldVKey x =>
    have hkeys : newlyPressed { s with stack := stack } = newlyPressed s := rfl
    obtain ⟨hkey, rfl⟩ | ⟨k, hkey, rfl⟩ := execLdVKey_cases h
    · simp only [exec, execLdVKey, hkeys, hkey]; rfl
    · simp only [exec, execLdVKey, hkeys, hkey]; rfl
  | ldBcd x =>
    obtain ⟨hin, rfl⟩ | ⟨hout, rfl⟩ := execLdBcd_cases h
    · exact if_pos hin
    · exact if_neg hout
  | storeRegs x =>
    obtain ⟨hin, rfl⟩ | ⟨hout, rfl⟩ := execStoreRegs_cases h
    · rw [← advanceI_withStack]
      exact if_pos hin
    · exact if_neg hout
  | loadRegs x =>
    obtain ⟨hin, rfl⟩ | ⟨hout, rfl⟩ := execLoadRegs_cases h
    · rw [← advanceI_withStack, ← loadRegsFrom_withStack]
      exact if_pos hin
    · exact if_neg hout
  | _ => cases h; rfl

theorem not_mayWrite_stack_or_sp {i : Instr} (s : State) (hcall : ∀ nnn, i ≠ .call nnn) (hret : i ≠ .ret) (k : Fin 16) :
    ¬mayWrite i s (.stack k) ∧ ¬mayWrite i s .sp := by
  cases i with
  | call nnn => exact absurd rfl (hcall nnn)
  | ret => exact absurd rfl hret
  | _ => simp [mayWrite, writtenBy, Element.raised, Element.isPixel, Element.memIn, Element.regUpTo]

/-- Run with another stack that agrees below SP, an instruction ends in the same state but for a stack that agrees below the
new SP. -/
def TakesStackAlong (i : Instr) (s : State) (stack : Vector Word 16) (t : State) : Prop :=
  ∃ stack', exec i { s with stack := stack } = .next { t with stack := stack' } ∧ AgreeBelow t.sp.val stack' t.stack

/-- A call writes the entry at SP, the one entry that becomes live. -/
theorem execCall_takesStackAlong {nnn : BitVec 12} {s t : State} {stack : Vector Word 16}
    (hagree : AgreeBelow s.sp.val stack s.stack) (h : exec (.call nnn) s = .next t) :
    TakesStackAlong (.call nnn) s stack t := by
  obtain ⟨hsp, rfl⟩ | ⟨hfull, rfl⟩ := execCall_cases h
  · refine ⟨stack.set s.sp.val s.pc hsp, dif_pos hsp, fun k hk => ?_⟩
    have hk' : k.val < s.sp.val + 1 := hk
    have hlive := hagree k
    simp only [Fin.getElem_fin, setPc_stack, push_stack, Vector.getElem_set] at hlive ⊢
    split
    · rfl
    · exact hlive (by omega)
  · exact ⟨stack, dif_neg hfull, hagree⟩

/-- A return reads the entry at SP - 1, a live one. -/
theorem execRet_takesStackAlong {s t : State} {stack : Vector Word 16} (hagree : AgreeBelow s.sp.val stack s.stack)
    (h : exec .ret s = .next t) : TakesStackAlong .ret s stack t := by
  obtain ⟨hsp, rfl⟩ | ⟨hempty, rfl⟩ := execRet_cases h
  · have htop : stack[s.sp.val - 1] = s.stack[s.sp.val - 1] := hagree ⟨s.sp.val - 1, by omega⟩ (by simp; omega)
    refine ⟨stack, (dif_pos hsp).trans ?_, fun k hk => hagree k (Nat.lt_of_lt_of_le hk (Nat.sub_le _ _))⟩
    simp only [State.popToPc, htop]
  · exact ⟨stack, dif_neg hempty, hagree⟩

theorem exec_takesStackAlong {i : Instr} {s t : State} {stack : Vector Word 16}
    (hagree : AgreeBelow s.sp.val stack s.stack) (h : exec i s = .next t) : TakesStackAlong i s stack t := by
  by_cases hcall : ∃ nnn, i = .call nnn
  · obtain ⟨nnn, rfl⟩ := hcall
    exact execCall_takesStackAlong hagree h
  · by_cases hret : i = .ret
    · subst hret
      exact execRet_takesStackAlong hagree h
    · have hcall' : ∀ nnn, i ≠ .call nnn := fun nnn hi => hcall ⟨nnn, hi⟩
      have hframe := not_mayWrite_stack_or_sp s hcall' hret
      have hsp : t.sp = s.sp := exec_frame h .sp (hframe 0).2
      have hstack (k : Fin 16) : t.stack[k] = s.stack[k] := exec_frame h (.stack k) (hframe k).1
      refine ⟨stack, exec_withStack stack hcall' hret h, fun k hk => ?_⟩
      rw [hstack k]
      exact hagree k (hsp ▸ hk)

/-- Settles O21: the two runs end in one state but for their stacks, and those agree below the new SP. -/
theorem deadStackEntriesAreNeverRead : Obligations.DeadStackEntriesAreNeverRead := by
  intro i s stack hagree
  obtain ⟨t, ht⟩ := exec_answers i s
  obtain ⟨stack', hu, hlive⟩ := exec_takesStackAlong hagree ht
  exact ⟨t, _, ht, hu, unchanged_withStack t stack' hlive⟩

end Sys2Proof.Machine

/-! PROOFS. A block store and the fetch after it (20_memory R62, R74): the registers stored read back at their addresses, and
a fetch reads the two bytes at PC. -/

namespace Sys2Proof.Machine

/-- The check of a transfer of x + 1 bytes, as the bound on the address of the last one (20_memory R69). -/
theorem inMemory_succ_iff (s : State) (k : Nat) : s.inMemory (k + 1) = true ↔ s.i.toNat + k ≤ 0xFFF := by
  simp [State.inMemory, ← Nat.add_assoc]

theorem exec_storeRegs_of_le {x : Reg} {s : State} (h : s.i.toNat + x.val ≤ 0xFFF) :
    exec (.storeRegs x) s = .next ((s.storeRegsTo (s.ea 0) x).advanceI x) :=
  if_pos ((inMemory_succ_iff s x.val).mpr h)

/-- V0 to Vx stored from `a` upward: V[r] reads back at `a + r`. -/
theorem readMem_storeRegsTo {s : State} {a : Nat} {x r : Reg} (hwf : Memory.wf s.cfg s.mem) (ha : a + x.val < memSize)
    (hr : r ≤ x) : (s.storeRegsTo a x).readMem (a + r.val) = s.getV r := by
  have hlen : ((regsUpTo x).map s.getV).length = x.val + 1 := by simp
  have hk : r.val < (regsUpTo x).length := by simpa [Nat.lt_succ_iff] using hr
  have hreg : (regsUpTo x)[r.val] = r := Fin.ext (getElem_regsUpTo x r.val hk)
  calc (s.storeRegsTo a x).readMem (a + r.val)
      = ((regsUpTo x).map s.getV)[r.val]'(by simpa using hk) :=
        readMem_writeMem_inside s a r.val _ hwf (by omega) (by simpa using hk)
    _ = s.getV r := by rw [List.getElem_map, hreg]

/-- A fetch is a big-endian read of the two bytes at PC (R62). -/
theorem fetchWord_eq (s : State) : s.fetchWord = wordOfBytes (s.readMem s.pc.toNat) (s.readMem (s.pc.toNat + 1)) := rfl

/-- Settles O41: the fetch reads the bytes at I + r and I + r + 1, where the store has put V[r] and V[r+1]. -/
theorem fetchSeesStoresAtOnce : Obligations.FetchSeesStoresAtOnce := by
  intro s x r q hwf hin hr hq hqr
  refine ⟨_, exec_storeRegs_of_le hin, ?_⟩
  have hread (p : Reg) (hp : p ≤ x) : (s.storeRegsTo (s.ea 0) x).readMem (s.i.toNat + p.val) = s.getV p :=
    readMem_storeRegsTo hwf (Nat.lt_succ_of_le hin) hp
  have hpc : (BitVec.ofNat 16 (s.i.toNat + r.val)).toNat = s.i.toNat + r.val := by
    have hrx : r.val ≤ x.val := hr
    rw [BitVec.toNat_ofNat]
    omega
  have hnext : s.i.toNat + r.val + 1 = s.i.toNat + q.val := by omega
  simp [fetchWord_eq, hpc, hnext, hread r hr, hread q hq]

end Sys2Proof.Machine

/-! PROOFS. The decoder and the encoder are inverse to each other; what a word is, by mask and match; the illegal words
(30_encoding R91 to R97). -/

namespace Sys2Proof

open Sys2Proof.Laws.FixedBits (nnn_row xkk_row x_row xyn_row xy_row)

/-! ### The encoder, then the decoder -/

/-- The register of Bnnn is the top nibble of its address (R91). -/
theorem xField_eq_nnnField_div (w : Word) : (xField w).val = (nnnField w).toNat / 256 := by
  rw [← xField_packNNN (family w), packNNN_fields]

theorem decode_encode {i : Instr} (hwf : i.wellFormed = true) : decode (encode i) = .ok i := by
  cases i with
  | cls | ret => rfl
  | jp | call | ldI => simp [encode, decode]
  | jpOffset nnn x =>
    have hx : xField (packNNN 0xB nnn) = x := by
      have htop : x.val = nnn.toNat / 256 := by simpa [Instr.wellFormed] using hwf
      exact Fin.ext ((xField_packNNN 0xB nnn).trans htop.symm)
    simpa [encode, decode] using hx
  | seImm | sneImm | ldImm | addImm | rnd => simp [encode, decode]
  | seReg | sneReg | drw => simp [encode, decode]
  | ldReg | orReg | andReg | xorReg | addReg | subReg | shrReg | subnReg | shlReg => simp [encode, decode, decodeFamily8]
  | skp | sknp => simp [encode, decode, decodeFamilyE]
  | ldVDt | ldVKey | ldDtV | ldStV | addIV | ldFont | ldBcd | storeRegs | loadRegs =>
    simp [encode, decode, decodeFamilyF]

/-- Settles O2, by the format of the instruction; only Bnnn needs that it is well-formed. -/
theorem encodeThenDecode : Obligations.EncodeThenDecode := fun _ => decode_encode

/-! ### The decoder, then the encoder -/

section
variable {w : Word} {f n : BitVec 4} {kk : Byte}

/-! A word of a known family, and of a known op[3:0] or op[7:0], is the packing of the fields the decoder reads. -/

theorem packNNN_of_family (hf : (family w).toNat = f.toNat) : packNNN f (nnnField w) = w := by
  rw [← BitVec.eq_of_toNat_eq hf, packNNN_fields]

theorem packXKK_of_family (hf : (family w).toNat = f.toNat) : packXKK f (xField w) (kkField w) = w := by
  rw [← BitVec.eq_of_toNat_eq hf, packXKK_fields]

theorem packXKK_of_family_kk (hf : (family w).toNat = f.toNat) (hkk : (kkField w).toNat = kk.toNat) :
    packXKK f (xField w) kk = w := by
  rw [← BitVec.eq_of_toNat_eq hkk, packXKK_of_family hf]

theorem packXYN_of_family (hf : (family w).toNat = f.toNat) : packXYN f (xField w) (yField w) (nField w) = w := by
  rw [← BitVec.eq_of_toNat_eq hf, packXYN_fields]

theorem packXYN_of_family_n (hf : (family w).toNat = f.toNat) (hn : (nField w).toNat = n.toNat) :
    packXYN f (xField w) (yField w) n = w := by
  rw [← BitVec.eq_of_toNat_eq hn, packXYN_of_family hf]

end

/-- `w` is the word of the well-formed instruction `i`. -/
def IsWordOf (w : Word) (i : Instr) : Prop := i.wellFormed = true ∧ encode i = w

section
variable {w : Word} {i : Instr}

theorem isWordOf_of_decodeFamily0 (h : decodeFamily0 w = .ok i) : IsWordOf w i := by
  unfold decodeFamily0 at h
  split at h
  · next hw => cases h; exact ⟨rfl, hw.symm⟩
  · split at h
    · next hw => cases h; exact ⟨rfl, hw.symm⟩
    · cases h

theorem isWordOf_of_decodeFamily8 (hf : (family w).toNat = 0x8) (h : decodeFamily8 w = .ok i) : IsWordOf w i := by
  unfold decodeFamily8 at h
  split at h <;> cases h
  all_goals next hn => exact ⟨rfl, packXYN_of_family_n hf hn⟩

theorem isWordOf_of_decodeFamilyE (hf : (family w).toNat = 0xE) (h : decodeFamilyE w = .ok i) : IsWordOf w i := by
  unfold decodeFamilyE at h
  split at h <;> cases h
  all_goals next hkk => exact ⟨rfl, packXKK_of_family_kk hf hkk⟩

theorem isWordOf_of_decodeFamilyF (hf : (family w).toNat = 0xF) (h : decodeFamilyF w = .ok i) : IsWordOf w i := by
  unfold decodeFamilyF at h
  split at h <;> cases h
  all_goals next hkk => exact ⟨rfl, packXKK_of_family_kk hf hkk⟩

end

/-- What the decoder accepts is the word of what it answers: the inversion lemma of `decode`. The cases are the families in
order (`h_1` is family 0), taken format by format. -/
theorem isWordOf_of_decode {w : Word} {i : Instr} (h : decode w = .ok i) : IsWordOf w i := by
  unfold decode at h
  split at h
  case h_1 => exact isWordOf_of_decodeFamily0 h
  case h_9 hf => exact isWordOf_of_decodeFamily8 hf h
  case h_15 hf => exact isWordOf_of_decodeFamilyE hf h
  case h_16 =>
    have hf : (family w).toNat = 0xF := by have := (family w).isLt; grind
    exact isWordOf_of_decodeFamilyF hf h
  case h_6 hf | h_10 hf =>
    split at h <;> cases h
    next hn => exact ⟨rfl, packXYN_of_family_n hf (congrArg BitVec.toNat hn)⟩
  case h_2 hf | h_3 hf | h_11 hf => cases h; exact ⟨rfl, packNNN_of_family hf⟩
  case h_12 hf =>
    cases h
    exact ⟨beq_iff_eq.mpr (xField_eq_nnnField_div w), packNNN_of_family hf⟩
  case h_14 hf => cases h; exact ⟨rfl, packXYN_of_family hf⟩
  case h_4 hf | h_5 hf | h_7 hf | h_8 hf | h_13 hf => cases h; exact ⟨rfl, packXKK_of_family hf⟩

/-- Settles O3, family by family as the decoder cuts the word. -/
theorem decodeThenEncode : Obligations.DecodeThenEncode := fun _ _ => isWordOf_of_decode

/-! ### Mask and match -/

section
variable {w : Word} {f n : BitVec 4} {kk : Byte}

/-! A word with the fixed bits of a row is that row's format around its own fields. -/

theorem packNNN_of_row (h : w &&& 0xF000 = packNNN f 0) : packNNN f (nnnField w) = w := by
  rw [← packNNN_fields w, nnn_row] at h
  have hf : family w = f := by simpa using congrArg family h
  rw [← hf, packNNN_fields]

theorem packXKK_of_row (h : w &&& 0xF000 = packXKK f 0 0) : packXKK f (xField w) (kkField w) = w := by
  rw [← packXKK_fields w, xkk_row] at h
  have hf : family w = f := by simpa using congrArg family h
  rw [← hf, packXKK_fields]

theorem packXKK_of_row_kk (h : w &&& 0xF0FF = packXKK f 0 kk) : packXKK f (xField w) kk = w := by
  rw [← packXKK_fields w, x_row] at h
  have hf : family w = f := by simpa using congrArg family h
  have hkk : kkField w = kk := by simpa using congrArg kkField h
  rw [← hf, ← hkk, packXKK_fields]

theorem packXYN_of_row (h : w &&& 0xF000 = packXYN f 0 0 0) : packXYN f (xField w) (yField w) (nField w) = w := by
  rw [← packXYN_fields w, xyn_row] at h
  have hf : family w = f := by simpa using congrArg family h
  rw [← hf, packXYN_fields]

theorem packXYN_of_row_n (h : w &&& 0xF00F = packXYN f 0 0 n) : packXYN f (xField w) (yField w) n = w := by
  rw [← packXYN_fields w, xy_row] at h
  have hf : family w = f := by simpa using congrArg family h
  have hn : nField w = n := by simpa using congrArg nField h
  rw [← hf, ← hn, packXYN_fields]

end

/-- The encoder gives an instruction the fixed bits of its row. -/
theorem encode_and_rowMask (i : Instr) : encode i &&& rowMask i = rowMatch i := by
  cases i with
  | cls | ret => rfl
  | jp | call | ldI | jpOffset => exact nnn_row ..
  | seImm | sneImm | ldImm | addImm | rnd => exact xkk_row ..
  | drw => exact xyn_row ..
  | seReg | sneReg | ldReg | orReg | andReg | xorReg | addReg | subReg | shrReg | subnReg | shlReg => exact xy_row ..
  | skp | sknp | ldVDt | ldVKey | ldDtV | ldStV | addIV | ldFont | ldBcd | storeRegs | loadRegs => exact x_row ..

/-- The instruction of the same row whose operands are the fields of `w` (R91). -/
def withOperandsOf (w : Word) : Instr → Instr
  | .cls => .cls
  | .ret => .ret
  | .jp _ => .jp (nnnField w)
  | .call _ => .call (nnnField w)
  | .seImm _ _ => .seImm (xField w) (kkField w)
  | .sneImm _ _ => .sneImm (xField w) (kkField w)
  | .seReg _ _ => .seReg (xField w) (yField w)
  | .ldImm _ _ => .ldImm (xField w) (kkField w)
  | .addImm _ _ => .addImm (xField w) (kkField w)
  | .ldReg _ _ => .ldReg (xField w) (yField w)
  | .orReg _ _ => .orReg (xField w) (yField w)
  | .andReg _ _ => .andReg (xField w) (yField w)
  | .xorReg _ _ => .xorReg (xField w) (yField w)
  | .addReg _ _ => .addReg (xField w) (yField w)
  | .subReg _ _ => .subReg (xField w) (yField w)
  | .shrReg _ _ => .shrReg (xField w) (yField w)
  | .subnReg _ _ => .subnReg (xField w) (yField w)
  | .shlReg _ _ => .shlReg (xField w) (yField w)
  | .sneReg _ _ => .sneReg (xField w) (yField w)
  | .ldI _ => .ldI (nnnField w)
  | .jpOffset _ _ => .jpOffset (nnnField w) (xField w)
  | .rnd _ _ => .rnd (xField w) (kkField w)
  | .drw _ _ _ => .drw (xField w) (yField w) (nField w)
  | .skp _ => .skp (xField w)
  | .sknp _ => .sknp (xField w)
  | .ldVDt _ => .ldVDt (xField w)
  | .ldVKey _ => .ldVKey (xField w)
  | .ldDtV _ => .ldDtV (xField w)
  | .ldStV _ => .ldStV (xField w)
  | .addIV _ => .addIV (xField w)
  | .ldFont _ => .ldFont (xField w)
  | .ldBcd _ => .ldBcd (xField w)
  | .storeRegs _ => .storeRegs (xField w)
  | .loadRegs _ => .loadRegs (xField w)

@[simp] theorem rowMask_withOperandsOf (w : Word) (j : Instr) : rowMask (withOperandsOf w j) = rowMask j := by
  cases j <;> rfl

@[simp] theorem rowMatch_withOperandsOf (w : Word) (j : Instr) : rowMatch (withOperandsOf w j) = rowMatch j := by
  cases j <;> rfl

theorem wellFormed_withOperandsOf (w : Word) (j : Instr) : (withOperandsOf w j).wellFormed = true := by
  cases j with
  | jpOffset => exact beq_iff_eq.mpr (xField_eq_nnnField_div w)
  | _ => rfl

theorem encode_withOperandsOf {w : Word} {j : Instr} (h : w &&& rowMask j = rowMatch j) :
    encode (withOperandsOf w j) = w := by
  cases j with
  | cls | ret => exact h.symm.trans BitVec.and_allOnes
  | jp | call | ldI | jpOffset => exact packNNN_of_row h
  | seImm | sneImm | ldImm | addImm | rnd => exact packXKK_of_row h
  | drw => exact packXYN_of_row h
  | seReg | sneReg | ldReg | orReg | andReg | xorReg | addReg | subReg | shrReg | subnReg | shlReg =>
    exact packXYN_of_row_n h
  | skp | sknp | ldVDt | ldVKey | ldDtV | ldStV | addIV | ldFont | ldBcd | storeRegs | loadRegs =>
    exact packXKK_of_row_kk h

theorem decode_of_row {w : Word} {j : Instr} (h : w &&& rowMask j = rowMatch j) : decode w = .ok (withOperandsOf w j) := by
  have hdecode := decode_encode (wellFormed_withOperandsOf w j)
  rwa [encode_withOperandsOf h] at hdecode

/-- Settles O4: a word that decodes is an encoding and so has the fixed bits of its row; a word with the fixed bits of a row
is the encoding of that row's instruction with the operands read from the word. -/
theorem wordIsInstructionByMaskAndMatch : Obligations.WordIsInstructionByMaskAndMatch := by
  refine ⟨fun w i hdecode => ?_, fun w j hrow => ?_⟩
  · obtain ⟨-, rfl⟩ := isWordOf_of_decode hdecode
    exact encode_and_rowMask i
  · exact ⟨withOperandsOf w j, decode_of_row hrow, rowMask_withOperandsOf w j, rowMatch_withOperandsOf w j⟩

/-! ### The illegal words -/

section
variable (w : Word)

/-! The fields of a word as the table of R96 writes them. -/

theorem family_toNat : (family w).toNat = w.toNat / 4096 := by
  have := w.isLt
  simp only [family, BitVec.extractLsb'_toNat, Nat.shiftRight_eq_div_pow]
  omega

theorem nField_toNat : (nField w).toNat = w.toNat % 16 := by simp [nField, BitVec.extractLsb'_toNat]

theorem kkField_toNat : (kkField w).toNat = w.toNat % 256 := by simp [kkField, BitVec.extractLsb'_toNat]

theorem nField_ne_zero_iff : nField w ≠ 0 ↔ w.toNat % 16 ≠ 0 := by
  rw [← nField_toNat]
  exact BitVec.toNat_inj.not.symm

/-! Which words of a family its decoder refuses. -/

theorem decodeFamily0_error_iff : (∃ r, decodeFamily0 w = .error r) ↔ w ≠ 0x00E0 ∧ w ≠ 0x00EE := by
  unfold decodeFamily0
  split_ifs <;> simp_all

theorem decodeFamily8_error_iff :
    (∃ r, decodeFamily8 w = .error r) ↔ w.toNat % 16 ∈ [0x8, 0x9, 0xA, 0xB, 0xC, 0xD, 0xF] := by
  rw [← nField_toNat]
  have := (nField w).isLt
  unfold decodeFamily8
  split
  case h_10 => exact ⟨fun _ => by grind, fun _ => ⟨_, rfl⟩⟩
  all_goals next hn => simp [hn]

theorem decodeFamilyE_error_iff : (∃ r, decodeFamilyE w = .error r) ↔ w.toNat % 256 ∉ [0x9E, 0xA1] := by
  rw [← kkField_toNat]
  unfold decodeFamilyE
  split <;> simp_all

theorem decodeFamilyF_error_iff : (∃ r, decodeFamilyF w = .error r) ↔
    w.toNat % 256 ∉ [0x07, 0x0A, 0x15, 0x18, 0x1E, 0x29, 0x33, 0x55, 0x65] := by
  rw [← kkField_toNat]
  unfold decodeFamilyF
  split <;> simp_all

end

/-- Settles O5, family by family: the decoder of a family refuses what its row of the table lists. -/
theorem illegalWordsAreThoseOfTheTable : Obligations.IllegalWordsAreThoseOfTheTable := by
  intro w
  rw [← decodeFamily0_error_iff, ← decodeFamily8_error_iff, ← decodeFamilyE_error_iff, ← decodeFamilyF_error_iff,
    ← family_toNat, ← nField_ne_zero_iff]
  unfold decode
  split
  case h_6 hf | h_10 hf => split <;> next hn => simpa [hf] using hn
  case h_16 =>
    have hf : (family w).toNat = 0xF := by have := (family w).isLt; grind
    simp [hf]
  all_goals next hf => simp [hf]

/-! ### Words of the spec -/

/-- Settles O1: the decoder run on each word. -/
theorem specWordsDecode : Obligations.SpecWordsDecode := by
  unfold Obligations.SpecWordsDecode
  decide

end Sys2Proof

/-! PROOFS. The sequencer (40_sequencer): what a Step does at its three checks, HALT, precise exceptions, the random source,
and a call with its return. -/

namespace Sys2Proof.Machine

/-! ### Which event runs, and the fetch (R120 to R122) -/

/-- Settles O6: the event that is next runs; a Step that passes its three checks executes the word at PC. -/
theorem stepExecutesDecodedInstruction : Obligations.StepExecutesDecodedInstruction := by
  refine ⟨fun s i due hhalt hpc hdecode hdue => ?_, fun _ _ => step_stepDue, fun _ _ => step_tickDue,
    fun _ _ _ => step_hostCall, fun _ => step_idle⟩
  have hfetch : { s with due := due }.canFetch = true := (canFetch_iff _).mpr hpc
  calc step s = stepInstr { s with due := due } := step_stepDue hdue
    _ = exec i { s with pc := s.pc + 2, due := due } := stepInstr_exec hhalt hfetch hdecode

/-- Settles O8: the Step raises AddressError in the state it began in, PC not yet advanced. -/
theorem fetchOutsideMemoryRaises : Obligations.FetchOutsideMemoryRaises := by
  intro s hhalt hpc
  have hfetch : s.canFetch = false := (canFetch_false_iff s).mpr hpc
  refine ⟨_, stepInstr_fetchFault hhalt hfetch, rfl, ?_, unchanged_raise s _ _ _⟩
  simp [ErrorKind.fatal]

/-! ### HALT (R125, 70_reset_and_hazards R321) -/

theorem hostCall_reset_or_halt_eq {call : HostCall} {s t : State} (h : hostCall call s = .next t) :
    call = .reset ∨ t.halt = s.halt := by
  obtain ⟨hreset, -⟩ | ⟨rom, -, rfl⟩ | ⟨v, -, rfl⟩ | ⟨e, order, -, -, rfl⟩ | ⟨-, rfl⟩ | ⟨bytes, -, rfl⟩ := hostCall_cases h
  case inl => exact .inl hreset
  case inr.inl => exact .inr (unchanged_afterLoad s rom .halt id)
  all_goals exact .inr rfl

/-- Settles O7: a Tick does not write HALT, a Step of a halted machine writes nothing, of the host's transactions Reset alone
writes HALT. -/
theorem haltedStepsDoNothingUntilReset : Obligations.HaltedStepsDoNothingUntilReset := by
  refine ⟨fun s => stepInstr_halted, fun s t h hhalt hrun => ?_⟩
  have hchanged : t.halt ≠ s.halt := by simp [hhalt, hrun]
  obtain ⟨due, -, rfl⟩ | ⟨due, -, hstep⟩ | ⟨call, inbox, hdue, hinbox, hcall⟩ | ⟨-, -, rfl⟩ := step_cases h
  · exact absurd rfl hchanged
  · have hnothing : stepInstr { s with due := due } = .next { s with due := due } := stepInstr_halted hhalt
    cases hnothing.symm.trans hstep
    exact absurd rfl hchanged
  · obtain rfl | hsame := hostCall_reset_or_halt_eq hcall
    · exact ⟨hdue, inbox, hinbox⟩
    · exact absurd hsame hchanged
  · exact absurd rfl hchanged

/-! ### Exceptions are precise (R127) -/

theorem not_mayWrite_of_raised {i : Instr} {s : State} {e : Element} (hcan : ¬canRaise i) (he : e.raised) :
    ¬mayWrite i s e := by
  cases i with
  | call | ret | drw | ldBcd | storeRegs | loadRegs => exact (hcan trivial).elim
  | _ => obtain rfl | rfl := he <;> simp [mayWrite, writtenBy, canRaise, Element.isPixel]

/-- An instruction raises, and then does nothing else, or it leaves ERR and HALT as they were. -/
theorem exec_raises_or_keeps {i : Instr} {s t : State} (h : exec i s = .next t) :
    (∃ k, t = s.raiseFrom k i) ∨ (t.err = s.err ∧ t.halt = s.halt) := by
  cases i with
  | call nnn =>
    obtain ⟨hsp, rfl⟩ | ⟨-, rfl⟩ := execCall_cases h
    · exact .inr ⟨rfl, rfl⟩
    · exact .inl ⟨_, rfl⟩
  | ret =>
    obtain ⟨hsp, rfl⟩ | ⟨-, rfl⟩ := execRet_cases h
    · exact .inr ⟨rfl, rfl⟩
    · exact .inl ⟨_, rfl⟩
  | drw x y n =>
    obtain ⟨-, rfl⟩ | ⟨-, -, rfl⟩ | ⟨-, -, rfl⟩ := execDrw_cases h
    · exact .inr ⟨rfl, rfl⟩
    · exact .inr ⟨rfl, rfl⟩
    · exact .inl ⟨_, rfl⟩
  | ldBcd x =>
    obtain ⟨-, rfl⟩ | ⟨-, rfl⟩ := execLdBcd_cases h
    · exact .inr ⟨rfl, rfl⟩
    · exact .inl ⟨_, rfl⟩
  | storeRegs x =>
    obtain ⟨-, rfl⟩ | ⟨-, rfl⟩ := execStoreRegs_cases h
    · exact .inr ⟨advanceI_err .., advanceI_halt ..⟩
    · exact .inl ⟨_, rfl⟩
  | loadRegs x =>
    obtain ⟨-, rfl⟩ | ⟨-, rfl⟩ := execLoadRegs_cases h
    · exact .inr ⟨advanceI_err .., advanceI_halt ..⟩
    · exact .inl ⟨_, rfl⟩
  | _ =>
    have hkeeps (e : Element) (he : e.raised) : e.Same s t := exec_frame h e (not_mayWrite_of_raised id he)
    exact .inr ⟨hkeeps .err (.inl rfl), hkeeps .halt (.inr rfl)⟩

/-- A Step of a running machine that changes ERR or halts is a fetch fault in the state it began in, or an exception taken
in the state with PC advanced; both record the address fetched from. -/
theorem stepInstr_raises {s t : State} (hrun : s.halt = false) (h : stepInstr s = .next t)
    (hraised : t.err ≠ s.err ∨ t.halt = true) :
    (0x0FFE < s.pc.toNat ∧ t = s.raise .addressError 0x0000 s.pc) ∨ ∃ k op, t = s.fetched.raise k op s.pc := by
  obtain ⟨hhalt, -⟩ | ⟨-, hfetch, rfl⟩ | ⟨-, -, -, rfl⟩ | ⟨-, -, i, -, hexec⟩ := stepInstr_cases h
  · exact absurd hhalt (by simp [hrun])
  · exact .inl ⟨(canFetch_false_iff s).mp hfetch, rfl⟩
  · exact .inr ⟨_, _, rfl⟩
  · obtain ⟨k, rfl⟩ | ⟨herr, hhalt⟩ := exec_raises_or_keeps hexec
    · exact .inr ⟨k, encode i, by rw [State.raiseFrom, fetched_pc0]⟩
    · have hrunning : t.halt = false := hhalt.trans hrun
      have hsame : t.err = s.err := herr
      simp [hrunning, hsame] at hraised

/-- Settles O10: both places where a Step can raise write ERR and HALT, after the fetch has written PC or not. -/
theorem exceptionsArePrecise : Obligations.ExceptionsArePrecise := by
  intro s t hrun h hraised
  obtain ⟨hpc, rfl⟩ | ⟨k, op, rfl⟩ := stepInstr_raises hrun h hraised
  · exact ⟨(unchanged_raise s _ _ _).mono fun e => .inl, ⟨_, _, rfl⟩, .inr ⟨hpc, rfl⟩⟩
  · refine ⟨?_, ⟨k, op, rfl⟩, .inl rfl⟩
    exact ((unchanged_setPc s _).trans (unchanged_raise s.fetched k op s.pc)).mono fun e => Or.symm

/-! ### The random source (R126, 46_random_timer_key R240) -/

/-- `s` with other bytes at the random port and another count of draws (log 3). -/
abbrev State.withRandom (s : State) (bytes : List Byte) (n : Nat) : State := { s with rndIn := bytes, rndDrawn := n }

section
variable (s : State) (bytes : List Byte) (n : Nat)

/-! Operations that choose by a quirk or a condition: the choice does not look at the random source. -/

theorem skipIf_withRandom (b : Bool) : (s.withRandom bytes n).skipIf b = (s.skipIf b).withRandom bytes n := by
  cases b <;> rfl

theorem setLogicResult_withRandom (x : Reg) (b : Byte) :
    (s.withRandom bytes n).setLogicResult x b = (s.setLogicResult x b).withRandom bytes n := by
  unfold State.setLogicResult
  split <;> rfl

theorem advanceI_withRandom (x : Reg) : (s.withRandom bytes n).advanceI x = (s.advanceI x).withRandom bytes n := by
  unfold State.advanceI
  split <;> rfl

theorem loadInto_withRandom (a : Nat) (rs : List Reg) (v : Vector Byte 16) :
    loadInto (s.withRandom bytes n) a rs v = loadInto s a rs v := by
  induction rs generalizing v with
  | nil => rfl
  | cons r rs ih => exact ih _

theorem loadRegsFrom_withRandom (a : Nat) (x : Reg) :
    (s.withRandom bytes n).loadRegsFrom a x = (s.loadRegsFrom a x).withRandom bytes n := by
  simp only [State.loadRegsFrom, loadInto_withRandom]

end

/-- An instruction other than Cxkk takes any random source along unread. -/
theorem exec_withRandom {i : Instr} {s t : State} (bytes : List Byte) (n : Nat) (hrnd : ∀ x kk, i ≠ .rnd x kk)
    (h : exec i s = .next t) : exec i (s.withRandom bytes n) = .next (t.withRandom bytes n) := by
  cases i with
  | rnd x kk => exact absurd rfl (hrnd x kk)
  | seImm | sneImm | seReg | sneReg | skp | sknp => cases h; rw [← skipIf_withRandom]; rfl
  | orReg | andReg | xorReg => cases h; rw [← setLogicResult_withRandom]; rfl
  | call nnn =>
    obtain ⟨hsp, rfl⟩ | ⟨hfull, rfl⟩ := execCall_cases h
    · exact dif_pos hsp
    · exact dif_neg hfull
  | ret =>
    obtain ⟨hsp, rfl⟩ | ⟨hempty, rfl⟩ := execRet_cases h
    · exact dif_pos hsp
    · exact dif_neg hempty
  | drw x y rows =>
    obtain ⟨hstall, rfl⟩ | ⟨hgo, hin, rfl⟩ | ⟨hgo, hout, rfl⟩ := execDrw_cases h
    · exact if_pos hstall
    · exact (if_neg hgo).trans (if_pos hin)
    · exact (if_neg hgo).trans (if_neg hout)
  | ldVKey x =>
    have hkeys : newlyPressed (s.withRandom bytes n) = newlyPressed s := rfl
    obtain ⟨hkey, rfl⟩ | ⟨k, hkey, rfl⟩ := execLdVKey_cases h
    · simp only [exec, execLdVKey, hkeys, hkey]; rfl
    · simp only [exec, execLdVKey, hkeys, hkey]; rfl
  | ldBcd x =>
    obtain ⟨hin, rfl⟩ | ⟨hout, rfl⟩ := execLdBcd_cases h
    · exact if_pos hin
    · exact if_neg hout
  | storeRegs x =>
    obtain ⟨hin, rfl⟩ | ⟨hout, rfl⟩ := execStoreRegs_cases h
    · rw [← advanceI_withRandom]
      exact if_pos hin
    · exact if_neg hout
  | loadRegs x =>
    obtain ⟨hin, rfl⟩ | ⟨hout, rfl⟩ := execLoadRegs_cases h
    · rw [← advanceI_withRandom, ← loadRegsFrom_withRandom]
      exact if_pos hin
    · exact if_neg hout
  | _ => cases h; rfl

/-- Settles O19: the source is taken along unread, whatever it holds; that the source `s` holds comes out as it went in is
the same fact for that source. -/
theorem onlyRandomReadsTheRandomSource : Obligations.OnlyRandomReadsTheRandomSource := by
  intro i s bytes n hrnd
  obtain ⟨t, ht⟩ := exec_answers i s
  have hkept : t = t.withRandom s.rndIn s.rndDrawn :=
    Host.Outcome.next.inj (ht.symm.trans (exec_withRandom s.rndIn s.rndDrawn hrnd ht))
  have hrndIn : t.rndIn = s.rndIn := by rw [hkept]
  have hrndDrawn : t.rndDrawn = s.rndDrawn := by rw [hkept]
  exact ⟨t, ht, hrndIn, hrndDrawn, exec_withRandom bytes n hrnd ht⟩

/-! ### A call and its return (R122, 41_control_flow R141, R142) -/

section
variable {s : State} (hrun : s.halt = false) (hpc : s.pc.toNat ≤ 0x0FFE)
include hrun hpc

theorem stepInstr_call {nnn : BitVec 12} (hdecode : decode s.fetchWord = .ok (.call nnn)) (hsp : s.sp.val < 16) :
    stepInstr s = .next ((s.fetched.push s.fetched.pc hsp).setPc (nnn.setWidth 16)) :=
  (stepInstr_exec hrun ((canFetch_iff s).mpr hpc) hdecode).trans (dif_pos hsp)

theorem stepInstr_ret (hdecode : decode s.fetchWord = .ok .ret) (hsp : 0 < s.sp.val) :
    stepInstr s = .next (s.fetched.popToPc hsp) :=
  (stepInstr_exec hrun ((canFetch_iff s).mpr hpc) hdecode).trans (dif_pos hsp)

end

/-- Settles O29: the call pushes pc0 + 2 and leaves the machine at nnn, where the return pops what the call pushed. -/
theorem callThenReturnRoundTrip : Obligations.CallThenReturnRoundTrip := by
  intro s nnn hrun hpc hnnn hsp hcall hret
  let t := (s.fetched.push s.fetched.pc hsp).setPc (nnn.setWidth 16)
  have htarget : t.pc.toNat = nnn.toNat := by simp only [t, setPc_pc]; bv_omega
  have hword : t.fetchWord = s.readWord nnn.toNat := congrArg s.readWord htarget
  have hfirst : stepInstr s = .next t := stepInstr_call hrun hpc hcall hsp
  have hheld : 0 < t.sp.val := Nat.succ_pos _
  have hsecond : stepInstr t = .next (t.fetched.popToPc hheld) :=
    stepInstr_ret (s := t) hrun (htarget ▸ hnnn) (hword ▸ hret) hheld
  have hpopped : (t.fetched.popToPc hheld).pc = s.pc + 2 := Vector.getElem_set_self (xs := s.stack) hsp
  exact ⟨t, _, hfirst, hsecond, hpopped, rfl, hrun⟩

end Sys2Proof.Machine

/-! PROOFS. Control transfer (41_control_flow R140 to R148): jumps, call and return with their exceptions, conditional skips.
The row of an instruction is `encode_and_rowMask` at it. -/

namespace Sys2Proof.Machine

/-! ### The shapes of a control transfer: a fatal exception, and a skip by a comparison -/

section
variable {i : Instr} {s : State}

/-- An instruction that answers a raise from its own word takes a fatal exception: the operation writes ERR and HALT only. -/
theorem raisesFatal_of_exec {k : ErrorKind} (hexec : exec i s = .next (s.raiseFrom k i)) (hfatal : k.fatal s.cfg = true) :
    RaisesFatal i s k := by
  have hhalt : (s.raiseFrom k i).halt = true := by simp [State.raiseFrom, hfatal]
  exact ⟨_, hexec, ⟨rfl, hhalt⟩, unchanged_raise s k _ _⟩

variable {a b : Byte}

theorem executes_skip_of_beq (hexec : exec i s = .next (s.skipIf (a == b))) :
    Executes i s (fun t => t.pc = if a = b then s.pc + 2 else s.pc) (fun e => e = .pc) :=
  ⟨_, hexec, by simp, unchanged_skipIf s _⟩

theorem executes_skip_of_bne (hexec : exec i s = .next (s.skipIf (a != b))) :
    Executes i s (fun t => t.pc = if a = b then s.pc else s.pc + 2) (fun e => e = .pc) :=
  ⟨_, hexec, by simp, unchanged_skipIf s _⟩

end

/-! ### Jumps (R140, R143) -/

theorem toNat_setWidth_address (nnn : BitVec 12) : (nnn.setWidth 16).toNat = nnn.toNat :=
  BitVec.toNat_setWidth_of_le (by decide)

/-- The largest sum is 0xFFF + 0xFF, so nothing is lost in 16 bits (decision D7). -/
theorem toNat_address_add_byte (nnn : BitVec 12) (b : Byte) :
    (nnn.setWidth 16 + b.setWidth 16).toNat = nnn.toNat + b.toNat := by
  have hb : (b.setWidth 16).toNat = b.toNat := BitVec.toNat_setWidth_of_le (by decide)
  rw [BitVec.toNat_add_of_lt (by have := toNat_setWidth_address nnn; omega), toNat_setWidth_address, hb]

theorem toNat_jumpOffset (s : State) (x : Reg) :
    (jumpOffset s x).toNat = if s.cfg.jumpV0 then (s.getV 0).toNat else (s.getV x).toNat :=
  apply_ite BitVec.toNat ..

/-- Settles O23: the jump writes PC and nothing else. -/
theorem jumpWritesPc : Obligations.JumpWritesPc := by
  intro nnn
  exact ⟨encode_and_rowMask (.jp nnn), fun s => ⟨_, rfl, toNat_setWidth_address nnn, unchanged_setPc s _⟩⟩

/-- Settles O26: the sum does not wrap, whichever register Q.jump_v0 chooses. -/
theorem jumpOffsetAddsTheChosenRegister : Obligations.JumpOffsetAddsTheChosenRegister := by
  intro nnn x
  refine ⟨encode_and_rowMask (.jpOffset nnn x), fun s => ?_⟩
  have hsum := toNat_address_add_byte nnn (jumpOffset s x)
  rw [toNat_jumpOffset] at hsum
  exact ⟨_, rfl, hsum, unchanged_setPc s _⟩

/-! ### Call and return (R141, R142) -/

section
variable {s : State}

theorem exec_call_of_lt (nnn : BitVec 12) (hsp : s.sp.val < 16) :
    exec (.call nnn) s = .next ((s.push s.pc hsp).setPc (nnn.setWidth 16)) := dif_pos hsp

theorem exec_call_of_full (nnn : BitVec 12) (hfull : s.sp.val = 16) :
    exec (.call nnn) s = .next (s.raiseFrom .stackOverflow (.call nnn)) := dif_neg (by omega)

theorem exec_ret_of_pos (hsp : 0 < s.sp.val) : exec .ret s = .next (s.popToPc hsp) := dif_pos hsp

theorem exec_ret_of_empty (hempty : s.sp.val = 0) : exec .ret s = .next (s.raiseFrom .stackUnderflow .ret) :=
  dif_neg (by omega)

end

/-- Settles O24: below 16 addresses the call is a push and a jump, at 16 it only raises. -/
theorem callPushesOrOverflows : Obligations.CallPushesOrOverflows := by
  refine fun nnn => ⟨encode_and_rowMask (.call nnn), fun s => ⟨fun hsp => ?_, fun hfull => ?_⟩⟩
  · have hpushed : (s.push s.pc hsp).stack[s.sp.val] = s.pc := Vector.getElem_set_self hsp
    have hframe := (unchanged_push s s.pc hsp).trans (unchanged_setPc (s.push s.pc hsp) (nnn.setWidth 16))
    exact ⟨_, exec_call_of_lt nnn hsp, ⟨hpushed, rfl, toNat_setWidth_address nnn⟩, hframe.mono fun e => or_assoc.mp⟩
  · exact raisesFatal_of_exec (exec_call_of_full nnn hfull) rfl

/-- Settles O25: with an address held the return pops it into PC, with none it only raises. -/
theorem returnPopsOrUnderflows : Obligations.ReturnPopsOrUnderflows := by
  refine ⟨encode_and_rowMask .ret, fun s => ⟨fun hsp => ?_, fun hempty => ?_⟩⟩
  · exact ⟨_, exec_ret_of_pos hsp, ⟨rfl, rfl⟩, unchanged_popToPc s hsp⟩
  · exact raisesFatal_of_exec (exec_ret_of_empty hempty) rfl

/-! ### Conditional skips (R144 to R148) -/

/-- Settles O27: both are skips by the comparison of V[x] with kk. -/
theorem immediateSkips : Obligations.ImmediateSkips := by
  intro x kk
  refine ⟨encode_and_rowMask (.seImm x kk), encode_and_rowMask (.sneImm x kk), fun s => ⟨?_, ?_⟩⟩
  · exact executes_skip_of_beq rfl
  · exact executes_skip_of_bne rfl

section
variable (x y : Reg) {z : BitVec 4} (hz : z ≠ 0)
include hz

theorem decode_family5_of_ne_zero : decode (packXYN 0x5 x y z) = .error .skipEqual := by
  simpa [decode] using hz

theorem decode_family9_of_ne_zero : decode (packXYN 0x9 x y z) = .error .skipDiffer := by
  simpa [decode] using hz

end

/-- Settles O28: both are skips by the comparison of V[x] with V[y], in families that have a row for last nibble 0 alone. -/
theorem registerSkips : Obligations.RegisterSkips := by
  intro x y
  refine ⟨encode_and_rowMask (.seReg x y), encode_and_rowMask (.sneReg x y), fun z hz => ?_, fun s => ⟨?_, ?_⟩⟩
  · exact ⟨decode_family5_of_ne_zero x y hz, decode_family9_of_ne_zero x y hz⟩
  · exact executes_skip_of_beq rfl
  · exact executes_skip_of_bne rfl

end Sys2Proof.Machine

/-! PROOFS. Register load and arithmetic (42_arithmetic R160 to R166): a register written alone, or a result and after it its
flag. The row of an instruction is `encode_and_rowMask` at it. -/

namespace Sys2Proof.Machine

/-! ### What an instruction that writes a result and its flag completes with -/

/-- The flag is written last, so that it stands in VF even with x = F, and the result stands in V[x] only otherwise (R166). -/
theorem executes_of_setResultAndFlag {i : Instr} {s : State} {x : Reg} {result flag : Byte} {r f : Nat}
    (hexec : exec i s = .next (s.setResultAndFlag x result flag)) (hresult : result.toNat = r) (hflag : flag.toNat = f) :
    Executes i s (fun t => (x ≠ VF → (t.getV x).toNat = r) ∧ (t.getV VF).toNat = f) (fun e => e = .v x ∨ e = .v VF) := by
  refine ⟨_, hexec, ⟨fun hx => ?_, ?_⟩, unchanged_setResultAndFlag s x result flag⟩
  · simp [getV_setResultAndFlag, hx, hresult]
  · simp [getV_setResultAndFlag, hflag]

/-! ### The flags and the subtraction, as numbers -/

theorem toNat_flagByte (b : Bool) : (flagByte b).toNat = if b then 1 else 0 := by cases b <;> rfl

section
variable (a b : Byte)

theorem toNat_carryFlag : (carryFlag a b).toNat = if a.toNat + b.toNat > 255 then 1 else 0 := by
  simp [carryFlag, toNat_flagByte]

theorem toNat_notBorrowFlag : (notBorrowFlag a b).toNat = if b.toNat ≤ a.toNat then 1 else 0 := by
  simp [notBorrowFlag, toNat_flagByte]

/-- The two cases of R164: without a borrow the difference itself, with a borrow 256 more. -/
theorem toNat_sub_byte :
    (a - b).toNat = if b.toNat ≤ a.toNat then a.toNat - b.toNat else a.toNat + 256 - b.toNat := by
  split
  case isTrue hle => exact BitVec.toNat_sub_of_le hle
  case isFalse hlt =>
    rw [BitVec.toNat_sub_of_lt (by simpa [BitVec.lt_def] using hlt)]
    omega

end

/-! ### The instructions -/

/-- Settles O30: each writes V[x] and nothing else; the sum of two bytes is taken modulo 256. -/
theorem loadAddAndCopy : Obligations.LoadAddAndCopy := by
  intro x y kk
  refine ⟨encode_and_rowMask (.ldImm x kk), encode_and_rowMask (.addImm x kk), encode_and_rowMask (.ldReg x y), fun s => ?_⟩
  have hsum : ((s.setV x (s.getV x + kk)).getV x).toNat = ((s.getV x).toNat + kk.toNat) % 256 := by
    rw [getV_setV_self, BitVec.toNat_add]
  refine ⟨?_, ?_, ?_⟩
  · exact ⟨_, rfl, getV_setV_self s x kk, unchanged_setV s x kk⟩
  · exact ⟨_, rfl, hsum, unchanged_setV s x _⟩
  · exact ⟨_, rfl, getV_setV_self s x _, unchanged_setV s x _⟩

/-- Settles O31: a result and its flag, the sum modulo 256 and the carry. -/
theorem addSetsCarry : Obligations.AddSetsCarry := by
  refine fun x y => ⟨encode_and_rowMask (.addReg x y), fun s => ?_⟩
  exact executes_of_setResultAndFlag rfl (BitVec.toNat_add ..) (toNat_carryFlag ..)

/-- Settles O32: a result and its flag, the difference by the two cases of the rule; 8xy7 is 8xy5 with its operands
exchanged. -/
theorem subtractionsSetNotBorrow : Obligations.SubtractionsSetNotBorrow := by
  refine fun x y => ⟨encode_and_rowMask (.subReg x y), encode_and_rowMask (.subnReg x y), fun s => ⟨?_, ?_⟩⟩
  · exact executes_of_setResultAndFlag rfl (toNat_sub_byte ..) (toNat_notBorrowFlag ..)
  · exact executes_of_setResultAndFlag rfl (toNat_sub_byte ..) (toNat_notBorrowFlag ..)

end Sys2Proof.Machine

/-! PROOFS. Bitwise logic and shifts (43_logic_shift R180 to R185): a result after which VF is cleared under Q.vf_reset, or a
result and after it the bit shifted out. The row of an instruction is `encode_and_rowMask` at it. -/

namespace Sys2Proof.Machine

/-! ### Or, and, exclusive or -/

/-- VF is cleared after the result, so that under Q.vf_reset the result stands only in another register (R180). -/
theorem executes_of_setLogicResult {i : Instr} {s : State} {x y : Reg} {result : Byte} {op : Bool → Bool → Bool}
    (hexec : exec i s = .next (s.setLogicResult x result))
    (hbits : ∀ k < 8, result.getLsbD k = op ((s.getV x).getLsbD k) ((s.getV y).getLsbD k)) :
    Executes i s
      (fun t => (¬(s.cfg.vfReset = true ∧ x = VF) →
          ∀ k, k < 8 → (t.getV x).getLsbD k = op ((s.getV x).getLsbD k) ((s.getV y).getLsbD k)) ∧
        (s.cfg.vfReset = true → t.getV VF = 0))
      (fun e => e = .v x ∨ (s.cfg.vfReset = true ∧ e = .v VF)) := by
  refine ⟨_, hexec, ⟨fun hkept k hk => ?_, fun hreset => ?_⟩, unchanged_setLogicResult s x result⟩
  · rw [getV_setLogicResult, if_neg hkept, if_pos rfl, hbits k hk]
  · rw [getV_setLogicResult, if_pos ⟨hreset, rfl⟩]

/-- Settles O33: each writes the bitwise result and, under Q.vf_reset, clears VF after it. -/
theorem logicOperations : Obligations.LogicOperations := by
  refine fun x y => ⟨encode_and_rowMask (.orReg x y), encode_and_rowMask (.andReg x y), encode_and_rowMask (.xorReg x y),
    fun s => ?_⟩
  rw [List.forall_mem_cons, List.forall_mem_cons, List.forall_mem_singleton]
  refine ⟨?_, ?_, ?_⟩
  · exact executes_of_setLogicResult rfl fun _ _ => BitVec.getLsbD_or
  · exact executes_of_setLogicResult rfl fun _ _ => BitVec.getLsbD_and
  · exact executes_of_setLogicResult rfl fun _ _ => BitVec.getLsbD_xor

/-! ### The shifts and the bits shifted out, as numbers -/

section
variable (a : Byte)

theorem toNat_shiftRight_one : (a >>> 1).toNat = a.toNat / 2 := by
  rw [BitVec.toNat_ushiftRight, Nat.shiftRight_one]

theorem toNat_shiftLeft_one : (a <<< 1).toNat = a.toNat * 2 % 256 := by
  rw [BitVec.toNat_shiftLeft, Nat.shiftLeft_eq]

theorem toNat_flagByte_getLsbD (k : Nat) : (flagByte (a.getLsbD k)).toNat = a.toNat / 2 ^ k % 2 := by
  rw [toNat_flagByte, ← BitVec.testBit_toNat, ← Nat.toNat_testBit]
  cases a.toNat.testBit k <;> rfl

theorem toNat_shiftedOutRight : (shiftedOutRight a).toNat = a.toNat % 2 := by
  rw [shiftedOutRight, toNat_flagByte_getLsbD, pow_zero, Nat.div_one]

/-- Bit 7 is the highest bit of a byte, so that nothing stands above it in the quotient. -/
theorem toNat_shiftedOutLeft : (shiftedOutLeft a).toNat = a.toNat / 128 := by
  rw [shiftedOutLeft, toNat_flagByte_getLsbD]
  exact Nat.mod_eq_of_lt (by omega)

end

/-- Settles O34: a result and its flag, the chosen source shifted by one and the bit shifted out. -/
theorem shiftsMoveTheOutgoingBitToVF : Obligations.ShiftsMoveTheOutgoingBitToVF := by
  refine fun x y => ⟨encode_and_rowMask (.shrReg x y), encode_and_rowMask (.shlReg x y), ?_⟩
  rintro s _ rfl
  constructor
  · exact executes_of_setResultAndFlag rfl (toNat_shiftRight_one _) (toNat_shiftedOutRight _)
  · exact executes_of_setResultAndFlag rfl (toNat_shiftLeft_one _) (toNat_shiftedOutLeft _)

end Sys2Proof.Machine

/-! PROOFS. Index register, loads and stores (44_index_memory R200 to R205): I written alone, the three digits of a byte, block
transfers, each after the check of its whole range. The row of an instruction is `encode_and_rowMask` at it. -/

namespace Sys2Proof.Machine

/-! ### Writes to I (R200 to R202) -/

/-- Settles O35: nnn is at most 0xFFF and stored as it is; the sum is reduced by the setting of I_OVF. -/
theorem indexLoadAndAdd : Obligations.IndexLoadAndAdd := by
  refine fun nnn x => ⟨encode_and_rowMask (.ldI nnn), encode_and_rowMask (.addIV x), fun s => ⟨?_, ?_⟩⟩
  · have hfits : nnn.toNat ≤ 0xFFF := Nat.le_of_lt_succ nnn.isLt
    exact ⟨_, rfl, wrapI_of_le s.cfg _ hfits, unchanged_setI s _⟩
  · obtain ⟨-, hmask, hsaturate⟩ := indexWritesAreWrapped s.cfg (s.i.toNat + (s.getV x).toNat)
    refine ⟨_, rfl, ?_, unchanged_setI s _⟩
    cases hovf : s.cfg.iOvf with
    | mask => exact hmask hovf
    | saturate => exact hsaturate hovf

theorem val_lowNibble (s : State) (x : Reg) : (lowNibble s x).val = (s.getV x).toNat % 16 := by
  simp [lowNibble]

/-- The font of a valid configuration ends below 0x200, so every glyph begins there (R261). -/
theorem glyphAddress_lt {c : Config} (hc : ConfigValid c) (d : Reg) : glyphAddress c d < 0x200 := by
  have hfont := ((configValid_iff c).mp hc).2
  simp only [glyphAddress]
  omega

/-- Settles O36: a glyph begins below 0x200, so that I_OVF has nothing to reduce. -/
theorem fontAddressOfLowNibble : Obligations.FontAddressOfLowNibble := by
  refine fun x => ⟨encode_and_rowMask (.ldFont x), fun s hc => ?_⟩
  have hlow := glyphAddress_lt hc (lowNibble s x)
  have hi : (s.setI (glyphAddress s.cfg (lowNibble s x))).i.toNat = glyphAddress s.cfg (lowNibble s x) :=
    wrapI_of_le s.cfg _ (by omega)
  refine ⟨_, rfl, ⟨?_, hi.trans_lt hlow⟩, unchanged_setI s _⟩
  rw [hi, glyphAddress, val_lowNibble]

/-! ### Transfers: the check of the whole range comes first (20_memory R69) -/

theorem advanceI_i_of_memIncr (s : State) (x : Reg) (h : s.cfg.memIncr = true) :
    (s.advanceI x).i = wrapI s.cfg (s.i.toNat + x.val + 1) := by
  rw [advanceI_i, if_pos h]

section
variable {i : Instr} {s t : State} {k : Nat}
  (hexec : exec i s = if s.inMemory (k + 1) then .next t else .next (s.raiseFrom .addressError i))
include hexec

/-- A transfer whose last byte, at I + k, lies in MEM goes on. -/
theorem exec_of_lastByte_le (h : s.i.toNat + k ≤ 0xFFF) : exec i s = .next t :=
  hexec.trans (if_pos ((inMemory_succ_iff s k).mpr h))

/-- A transfer whose last byte, at I + k, lies past 0xFFF raises AddressError. -/
theorem raisesFatal_of_lt_lastByte (h : 0xFFF < s.i.toNat + k) : RaisesFatal i s .addressError := by
  have hout : ¬s.inMemory (k + 1) = true := fun hin => Nat.not_le_of_lt h ((inMemory_succ_iff s k).mp hin)
  exact raisesFatal_of_exec (hexec.trans (if_neg hout)) rfl

end

/-! ### The three digits (R203) -/

/-- A digit is at most 9, so that it fits in its byte. -/
theorem map_toNat_bcdDigits (b : Byte) :
    (bcdDigits b).map BitVec.toNat = [b.toNat / 100, b.toNat / 10 % 10, b.toNat % 10] := by
  simp only [bcdDigits, List.map_cons, List.map_nil, BitVec.toNat_ofNat, List.cons.injEq, and_true]
  omega

/-- The digits of `b` stored from `a` upward: the digit of place `k` reads back at `a + k`. -/
theorem toNat_readMem_writeMem_bcdDigits {s : State} {a : Nat} (hwf : Memory.wf s.cfg s.mem) (ha : a + 3 ≤ memSize)
    (b : Byte) (k : Fin 3) : ((s.writeMem a (bcdDigits b)).readMem (a + k.val)).toNat =
      [b.toNat / 100, b.toNat / 10 % 10, b.toNat % 10][k] := by
  have hread : (s.writeMem a (bcdDigits b)).readMem (a + k.val) = (bcdDigits b)[k.val]'k.isLt :=
    readMem_writeMem_inside s a k.val (bcdDigits b) hwf ha k.isLt
  calc ((s.writeMem a (bcdDigits b)).readMem (a + k.val)).toNat
      = ((bcdDigits b).map BitVec.toNat)[k.val]'k.isLt := by rw [hread]; exact (List.getElem_map _).symm
    _ = [b.toNat / 100, b.toNat / 10 % 10, b.toNat % 10][k] := List.getElem_of_eq (map_toNat_bcdDigits b) k.isLt

/-- Settles O37: each of the three digits reads back at its address. -/
theorem bcdStoresThreeDigits : Obligations.BcdStoresThreeDigits := by
  refine fun x => ⟨encode_and_rowMask (.ldBcd x), fun s hwf => ⟨fun hin => ?_, raisesFatal_of_lt_lastByte rfl⟩⟩
  have hdigit := toNat_readMem_writeMem_bcdDigits hwf (Nat.succ_le_succ hin) (s.getV x)
  exact ⟨_, exec_of_lastByte_le rfl hin, ⟨hdigit 0, hdigit 1, hdigit 2⟩, unchanged_writeMem s _ _⟩

/-! ### Block transfers (R204, R205) -/

/-- Settles O38: the block is stored, then I advanced, which changes no byte. -/
theorem blockStoreWritesV0ToVx : Obligations.BlockStoreWritesV0ToVx := by
  refine fun x => ⟨encode_and_rowMask (.storeRegs x), fun s hwf => ⟨fun hin => ?_, raisesFatal_of_lt_lastByte rfl⟩⟩
  have hread (r : Reg) (hr : r ≤ x) :
      ((s.storeRegsTo (s.ea 0) x).advanceI x).readMem (s.i.toNat + r.val) = s.getV r := by
    rw [readMem_advanceI]
    exact readMem_storeRegsTo hwf (Nat.lt_succ_of_le hin) hr
  have hframe := (unchanged_storeRegsTo s (s.ea 0) x).trans (unchanged_advanceI (s.storeRegsTo (s.ea 0) x) x)
  exact ⟨_, exec_storeRegs_of_le hin, ⟨hread, advanceI_i_of_memIncr (s.storeRegsTo (s.ea 0) x) x⟩, hframe⟩

/-- Settles O39: the registers are loaded, then I advanced, which changes no register. -/
theorem blockLoadReadsV0ToVx : Obligations.BlockLoadReadsV0ToVx := by
  refine fun x => ⟨encode_and_rowMask (.loadRegs x), fun s => ⟨fun hin => ?_, raisesFatal_of_lt_lastByte rfl⟩⟩
  have hload (r : Reg) (hr : r ≤ x) :
      ((s.loadRegsFrom (s.ea 0) x).advanceI x).getV r = s.readMem (s.i.toNat + r.val) := by
    rw [getV_advanceI]
    exact (getV_loadRegsFrom s (s.ea 0) x r).trans (if_pos hr)
  have hframe := (unchanged_loadRegsFrom s (s.ea 0) x).trans (unchanged_advanceI (s.loadRegsFrom (s.ea 0) x) x)
  exact ⟨_, exec_of_lastByte_le rfl hin, ⟨hload, advanceI_i_of_memIncr (s.loadRegsFrom (s.ea 0) x) x⟩, hframe⟩

end Sys2Proof.Machine

/-! PROOFS. Display (45_display R220 to R223): which of its three outcomes a draw has, which pixels it toggles, and that only a
Tick lets a second draw complete under Q.disp_wait. The row of an instruction is `encode_and_rowMask` at it. -/

namespace Sys2Proof.Machine

/-! ### Clear (R220) -/

/-- Settles O42: the display becomes the blank one, and DIRTY the one other element written. -/
theorem clearBlanksTheDisplay : Obligations.ClearBlanksTheDisplay := by
  refine ⟨encode_and_rowMask .cls, fun s => ?_⟩
  have hexec : exec .cls s = .next { s with fb := blankDisplay, dirty := true } := rfl
  have hframe : Unchanged s { s with fb := blankDisplay, dirty := true } (fun e => e.isPixel ∨ e = .dirty) :=
    (exec_frame hexec).mono fun e he => he.elim id fun hraised => hraised.1.elim
  exact ⟨_, hexec, ⟨pixelOf_blankDisplay, rfl⟩, hframe⟩

/-! ### The outcome of a draw: it waits, else it faults, else it completes (R221, R222) -/

theorem drawReady_iff (s : State) : DrawReady s ↔ ¬(s.cfg.dispWait && !s.vbl) = true := by
  cases hwait : s.cfg.dispWait <;> simp [DrawReady, hwait]

theorem spriteInMemory_iff (s : State) (n : BitVec 4) : SpriteInMemory s n ↔ s.inMemory n.toNat = true := by
  simp [SpriteInMemory, State.inMemory, BitVec.toNat_eq]

section
variable {s : State} (x y : Reg) {n : BitVec 4}

theorem exec_drw_of_ready (hready : DrawReady s) (hin : SpriteInMemory s n) :
    exec (.drw x y n) s = .next (s.drawSprite x y n) :=
  (if_neg ((drawReady_iff s).mp hready)).trans (if_pos ((spriteInMemory_iff s n).mp hin))

theorem exec_drw_of_outside (hready : DrawReady s) (hout : ¬SpriteInMemory s n) :
    exec (.drw x y n) s = .next (s.raiseFrom .addressError (.drw x y n)) :=
  (if_neg ((drawReady_iff s).mp hready)).trans (if_neg fun hin => hout ((spriteInMemory_iff s n).mpr hin))

theorem executes_drw_stall (hwaits : ¬DrawReady s) :
    Executes (.drw x y n) s (fun t => t.pc = s.pc - 2) (fun e => e = .pc) :=
  ⟨s.stall, if_pos (not_not.mp fun hgo => hwaits ((drawReady_iff s).mpr hgo)), rfl, unchanged_stall s⟩

end

/-! ### The pixels of a draw (R221, R223) -/

/-- The pixel a position falls on: without Q.clip both coordinates are reduced, with it they are those of the pixel. -/
theorem target_eq_some_iff (c : Config) (r k : Nat) (row : Fin 32) (col : Fin 64) :
    target c r k = some (row, col) ↔
      if c.clip then r = row.val ∧ k = col.val else r % 32 = row.val ∧ k % 64 = col.val := by
  unfold target
  cases c.clip with
  | false => simp [Fin.ext_iff]
  | true =>
    by_cases hon : r ≤ 31 ∧ k ≤ 63
    · simp [hon, Fin.ext_iff]
    · simp only [hon, if_true, dite_false, reduceCtorEq, false_iff]
      omega

theorem flagByte_eq_one_or_zero (b : Bool) : flagByte b = 1 ∨ flagByte b = 0 := by cases b <;> decide

theorem flagByte_eq_one_iff (b : Bool) : flagByte b = 1 ↔ b = true := by cases b <;> decide

section
variable (s : State) (x y : Reg) (n : BitVec 4) (row : Fin 32) (col : Fin 64)

/-- The pixels a draw visits are those the claims call covered. -/
theorem mem_spritePixels_iff_covered : (row, col) ∈ spritePixels s x y n.toNat ↔ Covered s x y n row col := by
  simp only [mem_spritePixels, target_eq_some_iff, Covered, State.ea, spriteBit, drawOrigin]

theorem nodup_spritePixels_toNat : (spritePixels s x y n.toNat).Nodup :=
  nodup_spritePixels s x y n.toNat (by omega)

/-- A draw visits no pixel twice, so that a covered pixel is toggled once. -/
theorem pixelOf_drawSprite : pixelOf (s.drawSprite x y n).fb row col =
    (pixelOf s.fb row col ^^ decide ((row, col) ∈ spritePixels s x y n.toNat)) :=
  (foldl_drawPixel _ (nodup_spritePixels_toNat s x y n) (s.fb, false)).1 row col

theorem pixelOf_drawSprite_iff : pixelOf (s.drawSprite x y n).fb row col = true ↔
    (Covered s x y n row col ↔ pixelOf s.fb row col = false) := by
  rw [pixelOf_drawSprite, ← mem_spritePixels_iff_covered]
  cases pixelOf s.fb row col <;> simp

/-- VF after a draw is the collision: a visited pixel was on. -/
theorem getV_VF_drawSprite : (s.drawSprite x y n).getV VF =
    flagByte ((spritePixels s x y n.toNat).any fun p => pixelOf s.fb p.1 p.2) := by
  rw [getV_drawSprite, if_pos rfl]
  exact congrArg flagByte (foldl_drawPixel _ (nodup_spritePixels_toNat s x y n) (s.fb, false)).2

theorem getV_VF_drawSprite_eq_one_iff : (s.drawSprite x y n).getV VF = 1 ↔
    ∃ row col, Covered s x y n row col ∧ pixelOf s.fb row col = true := by
  simp only [getV_VF_drawSprite, flagByte_eq_one_iff, List.any_eq_true, Prod.exists, mem_spritePixels_iff_covered]

theorem drawSprite_dirty_iff : (s.drawSprite x y n).dirty = true ↔
    s.dirty = true ∨ ∃ row col, Covered s x y n row col := by
  simp only [drawSprite_dirty, Bool.or_eq_true, Bool.not_eq_true', List.isEmpty_eq_false_iff_exists_mem, Prod.exists,
    mem_spritePixels_iff_covered]

end

theorem drawSprite_vbl_of_dispWait {s : State} (x y : Reg) (n : BitVec 4) (hwait : s.cfg.dispWait = true) :
    (s.drawSprite x y n).vbl = false := by
  simp [hwait]

/-- Settles O43, by the three outcomes. -/
theorem drawTogglesTheCoveredPixels : Obligations.DrawTogglesTheCoveredPixels := by
  refine fun x y n => ⟨encode_and_rowMask (.drw x y n), fun s => ⟨fun hready hin => ?_, fun hready hout => ?_, ?_⟩⟩
  · have hVF : (s.drawSprite x y n).getV VF = 1 ∨ (s.drawSprite x y n).getV VF = 0 :=
      getV_VF_drawSprite s x y n ▸ flagByte_eq_one_or_zero _
    exact ⟨_, exec_drw_of_ready x y hready hin,
      ⟨pixelOf_drawSprite_iff s x y n, hVF, getV_VF_drawSprite_eq_one_iff s x y n, drawSprite_dirty_iff s x y n,
        drawSprite_vbl_of_dispWait x y n⟩,
      unchanged_drawSprite s x y n⟩
  · exact raisesFatal_of_exec (exec_drw_of_outside x y hready hout) rfl
  · exact executes_drw_stall x y

/-! ### A second draw of the same sprite (R221(f)) -/

section
variable {s : State} {x y : Reg} {n : BitVec 4} (hx : x ≠ VF) (hy : y ≠ VF)
include hx hy

/-- A draw and a Tick leave the coordinates, the sprite and the configuration as they were. -/
theorem covered_drawSprite_tick (row : Fin 32) (col : Fin 64) :
    Covered (s.drawSprite x y n).tick x y n row col ↔ Covered s x y n row col := by
  simp [Covered, getV_drawSprite, hx, hy]

theorem pixelOf_drawSprite_twice (row : Fin 32) (col : Fin 64) :
    pixelOf ((s.drawSprite x y n).tick.drawSprite x y n).fb row col = pixelOf s.fb row col := by
  rw [Bool.eq_iff_iff, pixelOf_drawSprite_iff, covered_drawSprite_tick hx hy, tick_fb, ← Bool.not_eq_true,
    pixelOf_drawSprite_iff]
  cases pixelOf s.fb row col <;> simp

end

/-- Settles O45: the second draw toggles the pixels the first one toggled; the Tick has let it proceed. -/
theorem drawTwiceRestoresTheDisplay : Obligations.DrawTwiceRestoresTheDisplay := by
  intro x y n s hx hy hready hin
  have hreadyAgain : DrawReady (s.drawSprite x y n).tick := .inr rfl
  refine ⟨_, _, exec_drw_of_ready x y hready hin, exec_drw_of_ready x y hreadyAgain hin, pixelOf_drawSprite_twice hx hy, ?_⟩
  simp only [getV_VF_drawSprite_eq_one_iff, covered_drawSprite_tick hx hy, tick_fb]

/-! ### The VBL latch (R222, 10_state R35) -/

theorem not_drawReady {s : State} (hwait : s.cfg.dispWait = true) (hvbl : s.vbl = false) : ¬DrawReady s := by
  simp [DrawReady, hwait, hvbl]

theorem eq_drw_of_mayWrite_vbl {i : Instr} {s : State} (h : mayWrite i s .vbl) : ∃ x y n, i = .drw x y n := by
  cases i with
  | drw x y n => exact ⟨x, y, n, rfl⟩
  | _ => simp [mayWrite, writtenBy, Element.raised, Element.isPixel, Element.memIn, Element.regUpTo] at h

section
variable {s t : State} (hset : t.vbl = true)
include hset

/-! Where VBL is set after a Step or a transaction, it was set before. -/

theorem execDrw_vbl_before {x y : Reg} {n : BitVec 4} (h : execDrw x y n s = .next t) : s.vbl = true := by
  obtain ⟨-, rfl⟩ | ⟨-, -, rfl⟩ | ⟨-, -, rfl⟩ := execDrw_cases h
  · exact hset
  · rw [drawSprite_vbl, Bool.and_eq_true] at hset
    exact hset.1
  · exact hset

/-- Of the instructions, a draw alone writes VBL. -/
theorem stepInstr_vbl_before (h : stepInstr s = .next t) : s.vbl = true := by
  obtain hsame | ⟨i, -, hw, hexec⟩ := stepInstr_same_or_executes (e := .vbl) nofun (by simp [Element.raised]) h
  · exact Eq.trans hsame.symm hset
  · obtain ⟨x, y, n, rfl⟩ := eq_drw_of_mayWrite_vbl hw
    have hfetched : s.fetched.vbl = true := execDrw_vbl_before hset hexec
    exact hfetched

/-- Reset clears VBL, and no other transaction writes it. -/
theorem hostCall_vbl_before {call : HostCall} (h : hostCall call s = .next t) : s.vbl = true := by
  obtain ⟨-, rfl⟩ | ⟨rom, -, rfl⟩ | ⟨v, -, rfl⟩ | ⟨e, order, -, -, rfl⟩ | ⟨-, rfl⟩ | ⟨bytes, -, rfl⟩ := hostCall_cases h
  case inl => exact absurd hset Bool.false_ne_true
  case inr.inl => exact Eq.trans (unchanged_afterLoad s rom .vbl id).symm hset
  all_goals exact hset

theorem tickIsNext_or_vbl_before (h : step s = .next t) : TickIsNext s ∨ s.vbl = true := by
  obtain ⟨due, hdue, -⟩ | ⟨due, -, hstep⟩ | ⟨call, inbox, -, -, hcall⟩ | ⟨-, -, rfl⟩ := step_cases h
  · exact .inl ⟨due, hdue⟩
  · have hbefore := stepInstr_vbl_before hset hstep
    exact .inr hbefore
  · have hbefore := hostCall_vbl_before hset hcall
    exact .inr hbefore
  · exact .inr hset

end

/-- Settles O44: a completed draw clears VBL, a draw stalls while VBL = 0, and VBL = 1 comes of a Tick. -/
theorem drawsAreSeparatedByTicks : Obligations.DrawsAreSeparatedByTicks := by
  refine ⟨fun x y n s hwait => ⟨fun hvbl hin => ?_, fun hvbl => ?_, .inr rfl⟩, fun s t hvbl h hset => ?_⟩
  · have hcleared := drawSprite_vbl_of_dispWait x y n hwait
    have hstalls : ¬DrawReady (s.drawSprite x y n) := not_drawReady hwait hcleared
    exact ⟨_, exec_drw_of_ready x y (.inr hvbl) hin, hcleared, fun x' y' n' => executes_drw_stall x' y' hstalls⟩
  · exact executes_drw_stall x y (not_drawReady hwait hvbl)
  · exact (tickIsNext_or_vbl_before hset h).resolve_right (by simp [hvbl])

end Sys2Proof.Machine

/-! PROOFS. Random byte, timers and keys (46_random_timer_key R240 to R248): no instruction of the family raises, so that each
keeps to its row of the access matrix (R41). The row of an instruction is `encode_and_rowMask` at it. -/

namespace Sys2Proof.Machine

/-- An instruction without a check of its own writes only what its row of the access matrix lists (R41). -/
theorem executes_of_not_canRaise {i : Instr} {s t : State} {post : State → Prop} (hcan : ¬canRaise i)
    (hexec : exec i s = .next t) (hpost : post t) : Executes i s post (writtenBy i s) :=
  ⟨t, hexec, hpost, (exec_frame hexec).mono fun _ he => he.resolve_right fun hraised => hcan hraised.1⟩

/-! ### The key skips (R244, R245, R247) -/

theorem keyPressed_eq (s : State) (x : Reg) : keyPressed s x = s.keys.getLsbD ((s.getV x).toNat % 16) := by
  rw [keyPressed, val_lowNibble]

theorem skipIf_not_pc (s : State) (b : Bool) : (s.skipIf !b).pc = if b then s.pc else s.pc + 2 := by
  cases b <;> rfl

/-- Settles O48: both are skips by the state of the key that the low nibble of V[x] numbers. -/
theorem keySkips : Obligations.KeySkips := by
  refine fun x => ⟨encode_and_rowMask (.skp x), encode_and_rowMask (.sknp x), fun s => ⟨?_, ?_⟩⟩
  · exact executes_of_not_canRaise id rfl (by rw [skipIf_pc, keyPressed_eq])
  · exact executes_of_not_canRaise id rfl (by rw [skipIf_not_pc, keyPressed_eq])

/-! ### The key wait (R246) -/

/-- A key counts as newly pressed while the wait is armed, it is down, and it was up at the previous check. -/
theorem getLsbD_newlyPressed (s : State) (k : Reg) :
    (newlyPressed s).getLsbD k.val = (s.wait && s.keys.getLsbD k.val && !s.kprev.getLsbD k.val) := by
  cases hwait : s.wait <;> simp [newlyPressed, hwait]

/-- The scan finds a key that is in the vector when no lower one is. -/
theorem leastKey_eq_some {keys : BitVec 16} {k : Reg} (hk : keys.getLsbD k.val = true)
    (hlow : ∀ j : Reg, j < k → keys.getLsbD j.val = false) : leastKey keys = some k := by
  cases hscan : leastKey keys with
  | none => exact absurd hk (Bool.eq_false_iff.mp ((leastKey_none keys).mp hscan k))
  | some j =>
    obtain ⟨hj, hlowj⟩ := leastKey_some keys j hscan
    obtain hlt | rfl | hgt := lt_trichotomy j k
    · exact absurd hj (Bool.eq_false_iff.mp (hlow j hlt))
    · rfl
    · exact absurd hk (Bool.eq_false_iff.mp (hlowj k hgt))

section
variable {s : State} {x : Reg}

/-- With no new key Fx0A arms the wait and stalls. -/
theorem executes_ldVKey_stall (hscan : leastKey (newlyPressed s) = none) :
    Executes (.ldVKey x) s (fun t => t.pc = s.pc - 2 ∧ t.wait = true ∧ t.kprev = s.keys)
      (fun e => e = .pc ∨ e = .wait ∨ e = .kprev) := by
  have hexec : exec (.ldVKey x) s = .next { s with kprev := s.keys, wait := true }.stall := by
    simp only [exec, execLdVKey, hscan]
  have hframe := (unchanged_withKeyWait s s.keys true).trans (unchanged_stall _)
  exact ⟨_, hexec, ⟨rfl, rfl, rfl⟩, hframe.mono fun e => Or.symm⟩

/-- With a new key Fx0A takes the one the scan finds and ends the wait. -/
theorem executes_ldVKey_take {k : Reg} (hscan : leastKey (newlyPressed s) = some k) :
    Executes (.ldVKey x) s (fun t => (t.getV x).toNat = k.val ∧ t.wait = false ∧ t.kprev = s.keys)
      (fun e => e = .v x ∨ e = .wait ∨ e = .kprev) := by
  have hexec : exec (.ldVKey x) s =
      .next ({ s with kprev := s.keys, wait := false }.setV x (BitVec.ofNat 8 k.val)) := by
    simp only [exec, execLdVKey, hscan]
  have hcode : (BitVec.ofNat 8 k.val).toNat = k.val := Nat.mod_eq_of_lt (by omega)
  have hframe := (unchanged_withKeyWait s s.keys false).trans (unchanged_setV _ x (BitVec.ofNat 8 k.val))
  exact ⟨_, hexec, ⟨by rw [getV_setV_self, hcode], rfl, rfl⟩, hframe.mono fun e => Or.symm⟩

end

/-- Settles O49: whether a wait is armed and which keys are new decide what the scan finds, and that decides the outcome. -/
theorem keyWaitTakesTheLeastNewKey : Obligations.KeyWaitTakesTheLeastNewKey := by
  refine fun x => ⟨encode_and_rowMask (.ldVKey x), fun s => ⟨fun hnone => ?_, fun k hwait hdown hup hlow => ?_⟩⟩
  · refine executes_ldVKey_stall ((leastKey_none _).mpr fun k => ?_)
    rw [getLsbD_newlyPressed]
    obtain hunarmed | hheld := hnone
    · simp [hunarmed]
    · simpa using fun _ => hheld k
  · refine executes_ldVKey_take (leastKey_eq_some ?_ fun j hj => ?_)
    · simp only [getLsbD_newlyPressed, hwait, hdown, hup, Bool.not_false, Bool.and_true]
    · rw [getLsbD_newlyPressed]
      simpa [hwait] using hlow j hj

/-! ### The random byte and its port (R240, R269) -/

theorem nextRandom_of_rndIn_eq_cons {s : State} {b : Byte} {rest : List Byte} (h : s.rndIn = b :: rest) :
    s.nextRandom = b := by
  simp [State.nextRandom, h]

theorem unchanged_supplyRandom (s : State) (bytes : List Byte) :
    Unchanged s (s.supplyRandom bytes) (fun e => e = .rndIn) := by
  intro e he
  cases e with
  | rndIn => exact absurd rfl he
  | _ => rfl

/-- Settles O46: the draw takes the head of the port where there is one; the mask bounds the result whatever was drawn. -/
theorem randomByteAndMask : Obligations.RandomByteAndMask := by
  refine fun x kk => ⟨encode_and_rowMask (.rnd x kk), fun s => ⟨?_, fun bytes => ?_⟩⟩
  · refine executes_of_not_canRaise id rfl ⟨fun b rest hport => ?_, fun hempty => ?_, ?_, rfl⟩
    · simp [nextRandom_of_rndIn_eq_cons hport, hport]
    · simp [hempty]
    · rw [getV_setV_self, BitVec.and_assoc, BitVec.and_not_self]
      exact BitVec.and_zero
  · exact ⟨_, rfl, rfl, unchanged_supplyRandom s bytes⟩

/-! ### The timer moves (R241 to R243) -/

/-- R42: BEEP is ST != 0. -/
theorem beeping_iff (s : State) : s.beeping = true ↔ s.st ≠ 0 := bne_iff_ne

/-- Settles O47: each copies one element to another, and BEEP reads ST. -/
theorem timerMoves : Obligations.TimerMoves := by
  refine fun x => ⟨encode_and_rowMask (.ldVDt x), encode_and_rowMask (.ldDtV x), encode_and_rowMask (.ldStV x), fun s => ?_⟩
  refine ⟨?_, ?_, ?_⟩
  · exact executes_of_not_canRaise id rfl (getV_setV_self s x s.dt)
  · exact executes_of_not_canRaise id rfl rfl
  · exact executes_of_not_canRaise id rfl ⟨rfl, beeping_iff _⟩

end Sys2Proof.Machine

/-! PROOFS. The host interface (47_host_interface R260 to R266): what Load, SetKeys and ReadFramebuffer write, and that a
display is marked DIRTY by whatever event changes it, the host's Reset excepted. -/

namespace Sys2Proof.Machine

/-! ### Load (R260) -/

theorem load_of_le {s : State} {rom : List Byte} (h : rom.length ≤ romMax) : s.load rom = .ok (s.writeMem progBase rom) :=
  if_neg (Nat.not_lt_of_le h)

theorem load_of_lt {s : State} {rom : List Byte} (h : romMax < rom.length) : s.load rom = .error .tooLong :=
  if_pos h

theorem afterLoad_of_load_eq_ok {s t : State} {rom : List Byte} (h : s.load rom = .ok t) : s.afterLoad rom = t := by
  simp [State.afterLoad, h]

theorem afterLoad_of_load_eq_error {s : State} {rom : List Byte} {e : LoadError} (h : s.load rom = .error e) :
    s.afterLoad rom = s := by
  simp [State.afterLoad, h]

/-- Settles O55: an image that fits is one store of its bytes from 0x200 upward, all of it inside MEM. -/
theorem loadCopiesTheImageOrFails : Obligations.LoadCopiesTheImageOrFails := by
  refine fun s rom hwf => ⟨fun hfits => ?_, fun hlong => ?_⟩
  · have hload : s.load rom = .ok (s.writeMem progBase rom) := load_of_le hfits
    have hin : progBase + rom.length ≤ memSize := Nat.add_le_add_left hfits progBase
    have hread (k : Nat) (hk : k < rom.length) : (s.writeMem progBase rom).readMem (progBase + k) = rom[k] :=
      readMem_writeMem_inside s progBase k rom hwf hin hk
    exact ⟨_, hload, congrArg Host.Outcome.next (afterLoad_of_load_eq_ok hload), hread, unchanged_writeMem s progBase rom⟩
  · have hload : s.load rom = .error .tooLong := load_of_lt hlong
    exact ⟨hload, congrArg Host.Outcome.next (afterLoad_of_load_eq_error hload)⟩

/-! ### Construction (R261) -/

theorem construct_eq_ok {c : Config} (h : ConfigValid c) : construct c = .ok (State.resetWith c) := by
  simp [construct, show configError c = none from h]

theorem construct_eq_error {c : Config} (h : ¬ConfigValid c) : ∃ e, construct c = .error e := by
  obtain ⟨e, he⟩ := Option.ne_none_iff_exists'.mp h
  exact ⟨e, by simp [construct, he]⟩

/-- Settles O54: construction succeeds exactly for the valid configurations. -/
theorem constructionRejectsInvalidConfigurations : Obligations.ConstructionRejectsInvalidConfigurations := by
  intro c
  rw [← configValid_iff]
  exact ⟨construct_eq_ok, construct_eq_error⟩

/-! ### SetKeys and ReadFramebuffer (R262, R264) -/

theorem unchanged_setKeys (s : State) (v : BitVec 16) : Unchanged s (s.setKeys v) (fun e => e = .keys) := by
  intro e he
  cases e with
  | keys => exact absurd rfl he
  | _ => rfl

theorem unchanged_readFramebuffer (s : State) : Unchanged s s.readFramebuffer.2 (fun e => e = .dirty) := by
  intro e he
  cases e with
  | dirty => exact absurd rfl he
  | _ => rfl

/-- Settles O56: each transaction answers by its definition and keeps to its frame. -/
theorem setKeysAndReadFramebuffer : Obligations.SetKeysAndReadFramebuffer := by
  refine fun s v => ⟨?_, ?_⟩
  · exact ⟨_, rfl, rfl, unchanged_setKeys s v⟩
  · exact ⟨_, rfl, rfl, rfl, unchanged_readFramebuffer s⟩

/-! ### DIRTY and the display (R264, 10_state R32) -/

theorem eq_cls_or_drw_of_mayWrite_pixel {i : Instr} {s : State} {row : Fin 32} {col : Fin 64}
    (h : mayWrite i s (.pixel row col)) : i = .cls ∨ ∃ x y n, i = .drw x y n := by
  cases i with
  | cls => exact .inl rfl
  | drw x y n => exact .inr ⟨x, y, n, rfl⟩
  | _ => simp [mayWrite, writtenBy, Element.raised, Element.memIn, Element.regUpTo] at h

section
variable {s t : State} (hclean : t.dirty = false) (row : Fin 32) (col : Fin 64)
include hclean

/-! Where DIRTY = 0 after a draw, a Step or a transaction, no pixel has changed. -/

/-- A draw that leaves DIRTY = 0 has visited no pixel. -/
theorem execDrw_pixelOf_of_clean {x y : Reg} {n : BitVec 4} (h : execDrw x y n s = .next t) :
    pixelOf t.fb row col = pixelOf s.fb row col := by
  obtain ⟨-, rfl⟩ | ⟨-, -, rfl⟩ | ⟨-, -, rfl⟩ := execDrw_cases h
  · rfl
  · have hnone : spritePixels s x y n.toNat = [] := by simpa using (Bool.or_eq_false_iff.mp hclean).2
    rw [pixelOf_drawSprite, hnone]
    simp
  · rfl

/-- Of the instructions, clear and draw alone write pixels, and clear sets DIRTY. -/
theorem stepInstr_pixelOf_of_clean (h : stepInstr s = .next t) : pixelOf t.fb row col = pixelOf s.fb row col := by
  obtain hsame | ⟨i, -, hw, hexec⟩ :=
    stepInstr_same_or_executes (e := .pixel row col) nofun (by simp [Element.raised]) h
  · exact hsame
  · obtain rfl | ⟨x, y, n, rfl⟩ := eq_cls_or_drw_of_mayWrite_pixel hw
    · cases hexec
      exact absurd hclean.symm Bool.false_ne_true
    · have hdraw := execDrw_pixelOf_of_clean hclean row col hexec
      exact hdraw

end

/-- Of the host's transactions Reset alone writes pixels. -/
theorem hostCall_reset_or_pixelOf_eq {call : HostCall} {s t : State} (h : hostCall call s = .next t) :
    call = .reset ∨ ∀ row col, pixelOf t.fb row col = pixelOf s.fb row col := by
  obtain ⟨hreset, -⟩ | ⟨rom, -, rfl⟩ | ⟨v, -, rfl⟩ | ⟨e, order, -, -, rfl⟩ | ⟨-, rfl⟩ | ⟨bytes, -, rfl⟩ := hostCall_cases h
  case inl => exact .inl hreset
  case inr.inl => exact .inr fun row col => unchanged_afterLoad s rom (.pixel row col) id
  all_goals exact .inr fun _ _ => rfl

/-- Settles O22: a Tick writes no pixel, a Step that does sets DIRTY, and of the transactions Reset alone does. -/
theorem cleanDisplayIsUnchanged : Obligations.CleanDisplayIsUnchanged := by
  intro s t h hclean
  obtain ⟨due, -, rfl⟩ | ⟨due, -, hstep⟩ | ⟨call, inbox, hdue, hinbox, hcall⟩ | ⟨-, -, rfl⟩ := step_cases h
  · exact .inl fun _ _ => rfl
  · have hpixels (row : Fin 32) (col : Fin 64) := stepInstr_pixelOf_of_clean hclean row col hstep
    exact .inl hpixels
  · obtain rfl | hpixels := hostCall_reset_or_pixelOf_eq hcall
    · exact .inr ⟨inbox, hdue, hinbox⟩
    · exact .inl hpixels
  · exact .inl fun _ _ => rfl

end Sys2Proof.Machine

/-! PROOFS. Exceptions, Ticks and Advance (60_exceptions R281 to R302): an illegal word, elements of the host that no
instruction reads, the timers, and the exact count of the Ticks and Steps that become due. -/

namespace Sys2Proof.Machine

/-! ### DecodeError (R281) -/

theorem fatal_decodeError_iff (c : Config) : ErrorKind.decodeError.fatal c = true ↔ c.onInvalid = .halt := beq_iff_eq

/-- Settles O9: the exception is taken in the state with PC advanced, and is fatal exactly under ON_INVALID = HALT. -/
theorem illegalWordRaisesDecodeError : Obligations.IllegalWordRaisesDecodeError := by
  intro s r hrun hpc hdecode
  have hstep := stepInstr_error hrun ((canFetch_iff s).mpr hpc) hdecode
  have hhalt : (s.fetched.raise .decodeError s.fetchWord s.pc).halt = true ↔ s.cfg.onInvalid = .halt := by
    rw [raise_halt, show s.fetched.halt = false from hrun, Bool.false_or]
    exact fatal_decodeError_iff s.cfg
  have hframe := (unchanged_setPc s (s.pc + 2)).trans (unchanged_raise s.fetched .decodeError s.fetchWord s.pc)
  exact ⟨_, hstep, rfl, rfl, hhalt, hframe.mono fun e => Or.symm⟩

/-! ### Elements that no instruction reads (R294, 10_state R32, R38) -/

/-- `s` with another error record, DIRTY and accumulators. -/
abbrev State.withHostElements (s : State) (err : Option ErrorRecord) (dirty : Bool) (accT accI : Rat) : State :=
  { s with err := err, dirty := dirty, accT := accT, accI := accI }

theorem unchanged_withHostElements (s : State) (err : Option ErrorRecord) (dirty : Bool) (accT accI : Rat) :
    Unchanged s (s.withHostElements err dirty accT accI) (fun e => e = .err ∨ e = .dirty ∨ e = .accT ∨ e = .accI) := by
  intro e he
  cases e with
  | err | dirty | accT | accI => exact absurd (by simp) he
  | _ => rfl

section
variable (s : State) (err : Option ErrorRecord) (dirty : Bool) (accT accI : Rat)

/-! Operations that choose by a quirk or a condition: the choice does not look at those elements. -/

theorem skipIf_withHostElements (b : Bool) :
    (s.withHostElements err dirty accT accI).skipIf b = (s.skipIf b).withHostElements err dirty accT accI := by
  cases b <;> rfl

theorem setLogicResult_withHostElements (x : Reg) (b : Byte) :
    (s.withHostElements err dirty accT accI).setLogicResult x b =
      (s.setLogicResult x b).withHostElements err dirty accT accI := by
  unfold State.setLogicResult
  split <;> rfl

theorem advanceI_withHostElements (x : Reg) :
    (s.withHostElements err dirty accT accI).advanceI x = (s.advanceI x).withHostElements err dirty accT accI := by
  unfold State.advanceI
  split <;> rfl

theorem loadInto_withHostElements (a : Nat) (rs : List Reg) (v : Vector Byte 16) :
    loadInto (s.withHostElements err dirty accT accI) a rs v = loadInto s a rs v := by
  induction rs generalizing v with
  | nil => rfl
  | cons r rs ih => exact ih _

theorem loadRegsFrom_withHostElements (a : Nat) (x : Reg) :
    (s.withHostElements err dirty accT accI).loadRegsFrom a x =
      (s.loadRegsFrom a x).withHostElements err dirty accT accI := by
  simp only [State.loadRegsFrom, loadInto_withHostElements]

end

/-- Run with other host elements, an instruction ends in the same state but for those elements: it leaves them as it found
them, or writes ERR by a raise or DIRTY by a write to the display. -/
theorem exec_withHostElements {i : Instr} {s t : State} (err : Option ErrorRecord) (dirty : Bool) (accT accI : Rat)
    (h : exec i s = .next t) : ∃ err' dirty',
      exec i (s.withHostElements err dirty accT accI) = .next (t.withHostElements err' dirty' accT accI) := by
  cases i with
  | seImm | sneImm | seReg | sneReg | skp | sknp =>
    cases h
    exact ⟨err, dirty, congrArg Host.Outcome.next (skipIf_withHostElements ..)⟩
  | orReg | andReg | xorReg =>
    cases h
    exact ⟨err, dirty, congrArg Host.Outcome.next (setLogicResult_withHostElements ..)⟩
  | call nnn =>
    obtain ⟨hsp, rfl⟩ | ⟨hfull, rfl⟩ := execCall_cases h
    · exact ⟨err, dirty, dif_pos hsp⟩
    · exact ⟨_, dirty, dif_neg hfull⟩
  | ret =>
    obtain ⟨hsp, rfl⟩ | ⟨hempty, rfl⟩ := execRet_cases h
    · exact ⟨err, dirty, dif_pos hsp⟩
    · exact ⟨_, dirty, dif_neg hempty⟩
  | drw x y n =>
    obtain ⟨hstall, rfl⟩ | ⟨hgo, hin, rfl⟩ | ⟨hgo, hout, rfl⟩ := execDrw_cases h
    · exact ⟨err, dirty, if_pos hstall⟩
    · exact ⟨err, _, (if_neg hgo).trans (if_pos hin)⟩
    · exact ⟨_, dirty, (if_neg hgo).trans (if_neg hout)⟩
  | ldVKey x =>
    refine ⟨err, dirty, ?_⟩
    have hkeys : newlyPressed (s.withHostElements err dirty accT accI) = newlyPressed s := rfl
    obtain ⟨hkey, rfl⟩ | ⟨k, hkey, rfl⟩ := execLdVKey_cases h
    · simp only [exec, execLdVKey, hkeys, hkey]; rfl
    · simp only [exec, execLdVKey, hkeys, hkey]; rfl
  | ldBcd x =>
    obtain ⟨hin, rfl⟩ | ⟨hout, rfl⟩ := execLdBcd_cases h
    · exact ⟨err, dirty, if_pos hin⟩
    · exact ⟨_, dirty, if_neg hout⟩
  | storeRegs x =>
    obtain ⟨hin, rfl⟩ | ⟨hout, rfl⟩ := execStoreRegs_cases h
    · refine ⟨err, dirty, ?_⟩
      rw [← advanceI_withHostElements]
      exact if_pos hin
    · exact ⟨_, dirty, if_neg hout⟩
  | loadRegs x =>
    obtain ⟨hin, rfl⟩ | ⟨hout, rfl⟩ := execLoadRegs_cases h
    · refine ⟨err, dirty, ?_⟩
      rw [← advanceI_withHostElements, ← loadRegsFrom_withHostElements]
      exact if_pos hin
    · exact ⟨_, dirty, if_neg hout⟩
  | cls => cases h; exact ⟨err, true, rfl⟩
  | _ => cases h; exact ⟨err, dirty, rfl⟩

/-- Settles O20: the two runs end in one state but for the host elements. -/
theorem hostElementsDoNotReachTheProgram : Obligations.HostElementsDoNotReachTheProgram := by
  intro i s err dirty accT accI
  obtain ⟨t, ht⟩ := exec_answers i s
  obtain ⟨err', dirty', hu⟩ := exec_withHostElements err dirty accT accI ht
  exact ⟨t, _, ht, hu, unchanged_withHostElements t err' dirty' accT accI⟩

/-! ### Ticks and the timers (R296, R298) -/

/-- A timer is clamped at 0, as truncated subtraction is. -/
theorem toNat_countDown (b : Byte) : (countDown b).toNat = b.toNat - 1 := by
  unfold countDown
  split
  case isTrue hzero => simp [hzero]
  case isFalse hpos => bv_omega

theorem unchanged_withDue (s : State) (due : List Due) : Unchanged s { s with due := due } (fun e => e = .due) := by
  intro e he
  cases e with
  | due => exact absurd rfl he
  | _ => rfl

theorem unchanged_tick (s : State) : Unchanged s s.tick (fun e => e = .dt ∨ e = .st ∨ e = .vbl) := by
  intro e he
  cases e with
  | dt | st | vbl => exact absurd (by simp) he
  | _ => rfl

/-- Settles O50: the Tick is consumed and taken; it does not look at HALT. -/
theorem tickDecrementsBothTimers : Obligations.TickDecrementsBothTimers := by
  intro s due hdue
  have hframe := (unchanged_withDue s due).trans (unchanged_tick _)
  refine ⟨_, step_tickDue hdue, toNat_countDown s.dt, toNat_countDown s.st, rfl, rfl, hframe.mono fun e he => ?_⟩
  obtain rfl | rfl | rfl | rfl := he <;> simp

/-- Settles O51, by induction on the number of Ticks. -/
theorem timersRunDownAndStayAtZero : Obligations.TimersRunDownAndStayAtZero := by
  intro n
  induction n with
  | zero => exact fun s => ⟨rfl, rfl⟩
  | succ n ih =>
    intro s
    obtain ⟨hdt, hst⟩ := ih s.tick
    rw [Function.iterate_succ_apply, hdt, hst, tick_dt, tick_st, toNat_countDown, toNat_countDown]
    omega

theorem beeping_eq_false_iff (s : State) : s.beeping = false ↔ s.st = 0 := bne_eq_false_iff_eq

/-- Settles O52: BEEP reads ST, which a Tick takes from 1 to 0. -/
theorem beepFollowsTheSoundTimer : Obligations.BeepFollowsTheSoundTimer := by
  refine fun s => ⟨beeping_iff s, fun hone => ⟨(beeping_iff s).mpr ?_, (beeping_eq_false_iff _).mpr ?_⟩⟩
  · simp [hone]
  · simp [hone, countDown]

/-! ### Advance: what it writes (R287, R300) -/

theorem unchanged_advance (s : State) (e : Rat) (order : List Due) :
    Unchanged s (s.advance e order) (fun x => x = .err ∨ x = .accT ∨ x = .accI ∨ x = .due) := by
  intro x hx
  cases x with
  | err | accT | accI | due => exact absurd (by simp) hx
  | _ => rfl

theorem hostCall_advance {e : Rat} (he : 0 ≤ e) (order : List Due) (s : State) :
    hostCall (.advance e order) s = .next (s.advance e order) :=
  if_neg (not_lt.mpr he)

/-- Settles O57: a time that is not negative is not refused. -/
theorem advanceClearsErrorUnlessHalted : Obligations.AdvanceClearsErrorUnlessHalted :=
  fun s e order he => ⟨_, hostCall_advance he order s, rfl, unchanged_advance s e order⟩

/-! ### The orders of the events of an Advance (SCHED, R300, R302) -/

/-- Settles O59: an order that asks for just the events there are has each as it asks for it; a list of Ticks and Steps is
given up to order by how many of each it holds. -/
theorem everyInterleavingCanBeScheduled : Obligations.EveryInterleavingCanBeScheduled := by
  refine ⟨fun events => ?_, fun nT nI order => List.perm_iff_count.mpr fun d => ?_⟩
  · induction events with
    | nil => rfl
    | cons d events ih => cases d <;> simpa [interleave] using ih
  · obtain ⟨htick, hstep⟩ := count_interleave order nT nI
    cases d with
    | tick => simp [htick, List.count_replicate]
    | step => simp [hstep, List.count_replicate]

/-! ### No Tick and no Step is lost or counted twice (R300, 10_state R38) -/

/-- In `E` seconds in all, `n` events of `rate` a second have become due, and `acc` is the time not yet used up by them. -/
structure Accounted (rate : Nat) (E acc : Rat) (n : Nat) : Prop where
  /-- As many events as fit into the time. -/
  count : (n : Int) = ⌊rate * E⌋
  /-- The rest of the time. -/
  left : acc = E - n / rate

theorem accounted_zero (rate : Nat) : Accounted rate 0 0 0 := ⟨by simp, by simp⟩

theorem eventsDue_eq_floor {acc : Rat} (hacc : 0 ≤ acc) (rate : Nat) : (eventsDue acc rate : Int) = ⌊acc * rate⌋ :=
  Int.toNat_of_nonneg (Int.floor_nonneg.mpr (mul_nonneg hacc (Nat.cast_nonneg rate)))

namespace Accounted

variable {rate n : Nat} {E acc e : Rat}

/-- The time used up by whole events does not exceed the time there was. -/
theorem left_nonneg (h : Accounted rate E acc n) (hrate : 0 < rate) : 0 ≤ acc := by
  have hpos : (0 : Rat) < rate := Nat.cast_pos.mpr hrate
  have hle : (n : Rat) ≤ rate * E := by
    rw [← Int.cast_natCast, h.count]
    exact Int.floor_le _
  rw [h.left, sub_nonneg, div_le_iff₀' hpos]
  exact hle

/-- The events due after `e` more seconds are those of the whole time less those counted before. -/
theorem eventsDue_add (h : Accounted rate E acc n) (hrate : 0 < rate) (he : 0 ≤ e) :
    (eventsDue (acc + e) rate : Int) = ⌊rate * (E + e)⌋ - n := by
  have hpos : (rate : Rat) ≠ 0 := Nat.cast_ne_zero.mpr hrate.ne'
  have htime : (acc + e) * rate = rate * (E + e) - n := by
    rw [h.left]
    field_simp
    ring
  rw [eventsDue_eq_floor (add_nonneg (h.left_nonneg hrate) he), htime, Int.floor_sub_natCast]

/-- An Advance by `e` seconds keeps the account: what it makes due is added and its time taken off. -/
theorem add (h : Accounted rate E acc n) (hrate : 0 < rate) (he : 0 ≤ e) :
    Accounted rate (E + e) (timeLeft (acc + e) rate) (n + eventsDue (acc + e) rate) where
  count := by
    rw [Nat.cast_add, h.eventsDue_add hrate he]
    ring
  left := by
    rw [timeLeft, h.left, Nat.cast_add]
    ring

end Accounted

/-- Both accounts of a machine with RATE = `rate` that has been advanced by `E` seconds in all, none of its events consumed. -/
structure TimeAccounted (rate : Nat) (s : State) (E : Rat) : Prop where
  /-- RATE, which no Advance writes. -/
  rate_eq : s.cfg.rate = rate
  /-- The Ticks, 60 a second. -/
  ticks : Accounted timerHz E s.accT (s.due.count .tick)
  /-- The Steps, RATE a second. -/
  steps : Accounted rate E s.accI (s.due.count .step)

theorem count_due_advance (s : State) (e : Rat) (order : List Due) :
    (s.advance e order).due.count .tick = s.due.count .tick + eventsDue (s.accT + e) timerHz ∧
      (s.advance e order).due.count .step = s.due.count .step + eventsDue (s.accI + e) s.cfg.rate := by
  obtain ⟨htick, hstep⟩ := count_interleave order (eventsDue (s.accT + e) timerHz) (eventsDue (s.accI + e) s.cfg.rate)
  simp only [State.advance, List.count_append, htick, hstep, and_self]

section
variable {rate : Nat} {s : State} {E : Rat} (hrate : 0 < rate)
include hrate

theorem TimeAccounted.advance (h : TimeAccounted rate s E) {e : Rat} (he : 0 ≤ e) (order : List Due) :
    TimeAccounted rate (s.advance e order) (E + e) := by
  obtain ⟨rfl, hticks, hsteps⟩ := h
  obtain ⟨htick, hstep⟩ := count_due_advance s e order
  exact ⟨rfl, htick ▸ hticks.add (by decide) he, hstep ▸ hsteps.add hrate he⟩

/-- Any number of Advances keep the accounts, of the sum of their times. -/
theorem TimeAccounted.foldl_advance (h : TimeAccounted rate s E) {calls : List (Rat × List Due)}
    (hcalls : ∀ c ∈ calls, 0 ≤ c.1) :
    TimeAccounted rate (calls.foldl (fun u c => u.advance c.1 c.2) s) (E + (calls.map Prod.fst).sum) := by
  induction calls generalizing s E with
  | nil => simpa using h
  | cons c calls ih =>
    obtain ⟨hc, hcalls⟩ := List.forall_mem_cons.mp hcalls
    rw [List.map_cons, List.sum_cons, ← add_assoc]
    exact ih (h.advance hrate hc c.2) hcalls

end

/-- Settles O58: with empty accumulators and nothing due the accounts are those of no time at all. -/
theorem noTickOrStepIsLostOrCountedTwice : Obligations.NoTickOrStepIsLostOrCountedTwice := by
  intro s calls hrate haccT haccI hdue hcalls
  have hstart : TimeAccounted s.cfg.rate s 0 := by
    refine ⟨rfl, ?_, ?_⟩
    · rw [haccT, hdue]; exact accounted_zero _
    · rw [haccI, hdue]; exact accounted_zero _
  obtain ⟨-, hticks, hsteps⟩ := hstart.foldl_advance hrate hcalls
  rw [zero_add] at hticks hsteps
  exact ⟨hticks.count, hsteps.count⟩

end Sys2Proof.Machine

/-! PROOFS. Reset (70_reset_and_hazards R320, R321): what a machine right after Reset holds, and that the host's Reset gives
such a machine again. -/

namespace Sys2Proof.Machine

/-! ### The state after Reset (R320) -/

section
variable (c : Config)

/-- The memory right after Reset has no cell of its own, so that every address reads as its reset contents. -/
theorem readMem_resetWith (a : Nat) : (State.resetWith c).readMem a = resetByte c a := rfl

theorem resetByte_font (k : Fin 80) : resetByte c (c.fontBase + k.val) = c.font[k] := by
  have hin : c.fontBase ≤ c.fontBase + k.val ∧ c.fontBase + k.val < c.fontBase + 80 := by omega
  simp [resetByte, hin]

theorem resetByte_outside_font {a : Nat} (h : a < c.fontBase ∨ c.fontBase + 80 ≤ a) : resetByte c a = 0 :=
  dif_neg (by omega)

theorem getV_resetWith (r : Reg) : (State.resetWith c).getV r = 0 := Vector.getElem_replicate r.isLt

theorem stack_resetWith (k : Fin 16) : (State.resetWith c).stack[k] = 0 := Vector.getElem_replicate k.isLt

end

/-- Settles O53: memory reads as its reset contents, the vectors hold zeros, the display is the blank one, and every other
element is a value written out in the model. -/
theorem resetState : Obligations.ResetState := by
  refine fun c => ⟨fun k => ?_, fun a ha => ?_, rfl, rfl, getV_resetWith c, rfl, stack_resetWith c, rfl, rfl,
    pixelOf_blankDisplay, rfl, rfl, rfl, rfl, rfl, rfl, rfl, rfl, rfl, rfl⟩
  · rw [readMem_resetWith, resetByte_font]
  · rw [readMem_resetWith, resetByte_outside_font c ha]

/-! ### The host's Reset (R321) -/

/-- The host's Reset differs from creation in what the environment still has to give (log 15). -/
theorem unchanged_hostReset (s : State) :
    Unchanged (State.resetWith s.cfg) s.hostReset (fun e => e = .rndIn ∨ e = .rndDrawn ∨ e = .due ∨ e = .inbox) := by
  intro e he
  cases e with
  | rndIn | rndDrawn | due | inbox => exact absurd (by simp) he
  | _ => rfl

/-- Settles O60: the four elements are taken over from the state before, every other one from creation. -/
theorem hostResetIsCreation : Obligations.HostResetIsCreation :=
  fun s => ⟨s.hostReset, rfl, rfl, rfl, rfl, rfl, unchanged_hostReset s⟩

end Sys2Proof.Machine
